-- ==== Sys2Proof/Word.lean ====
section
/-!
DEFINITION. The word types of the SFS block (00_scope.md R7, R8): what the spec gives a width in bits.
-/

namespace Sys2Proof

/-- One byte, bit 7 the most significant (R8, R43). -/
abbrev Byte := BitVec 8

/-- The hunt counter `hc` and the run counter `run`: 3 bits each (R22, R23). -/
abbrev Count := BitVec 3

/-- The write index `pos`: 9 bits (R24). -/
abbrev Index := BitVec 9

/-- The input word `IW[8:0] = {s_err, s_data[7:0]}` of one read result (R60). -/
abbrev InputWord := BitVec 9

/-- The event word `EV[12:0] = {st[2:0], kind[1:0], data[7:0]}` (R62). -/
abbrev EventWord := BitVec 13

/-- The reason code on `diag_reason` (R28, R140). -/
abbrev Reason := BitVec 2

end Sys2Proof
end

