-- ==== Sys2Proof/Config.lean ====
section
/-!
DEFINITION. The constants the spec fixes (00_scope.md R6) and the parameters it leaves open (R7).
An open value is an opaque constant with no body: a claim about it holds whatever it is.
-/

namespace Sys2Proof.Config

/-- `FRAME_LEN`: bytes in one de-stuffed frame; the frame buffer's indices are [0, 404) (R6, R40). -/
abbrev frameLen : Nat := 404

/-- `ESC`: the escape byte (R6, R64). -/
abbrev esc : Byte := 0x1B#8

/-- The byte of the second half of the start marker (R6, R64). -/
abbrev soh : Byte := 0x01#8

/-- `START_MARKER` (R6). -/
abbrev startMarker : List Byte :=
  [0x1B#8, 0x1B#8, 0x1B#8, 0x1B#8, 0x01#8, 0x01#8, 0x01#8, 0x01#8]

/-- `START_LEN`: the payload begins here (R6). -/
abbrev startLen : Nat := 8

/-- `PAYLOAD_END`: accumulation fills [8, 396) (R6). -/
abbrev payloadEnd : Nat := 396

/-- `ESC_RUN`: the run length that triggers the collapse (R6). -/
abbrev escRun : Nat := 8

/-- `ESC_REWIND`: how far a collapse moves the write index back (R6). -/
abbrev escRewind : Nat := 4

/-- `END_MARKER` (R6). -/
abbrev endMarker : List Byte := [0x1B#8, 0x1B#8, 0x1B#8, 0x1B#8, 0x1A#8]

/-- Where the end marker lies: [396, 401) (R6). -/
abbrev endMarkerAt : Nat := 396

/-- `CRC_LO`: the checksum span is [59, 365) (R6). -/
abbrev crcLo : Nat := 59

/-- `CRC_HI` (R6). -/
abbrev crcHi : Nat := 365

/-- `CRC_FIELD`: the embedded checksum is the two bytes [366, 368) (R6). -/
abbrev crcField : Nat := 366

/-- `TS_W`: the width of the timestamp port, a parameter (R7, D7, I2; the spec's default is 64). It has no
body, so a claim holds for every width. Log entry 2. -/
opaque tsW : Nat

/-- `CRC16_FN`: the checksum function, OPEN (R7, R100, D8). A free value, log entry 1. -/
opaque crc16Fn : List Byte → BitVec 16

/-- The bits of `m_rec` after the `n`-th RESET, which the spec leaves unspecified (R34, R160).
A free value, log entry 4. -/
opaque freeRecBits : Nat → BitVec (400 + tsW)

end Sys2Proof.Config
end

