-- ==== Sys2Proof/Syntax.lean ====
section
/-!
DEFINITION. The syntax: the codes of the state register (10_state.md R21) and the operations of
`opcode_table.json`, one constructor of `Instr` per row. Guards over the state are no part of the syntax.
-/

namespace Sys2Proof

/-- The eight codes of the state register `st` (R21); the last two are reserved (R66). -/
inductive St where
  /-- `000` HUNTING_START. -/
  | hunt
  /-- `001` ACCUMULATING. -/
  | acc
  /-- `010` READING_TRAILER. -/
  | trl
  /-- `011` VALIDATING. -/
  | val
  /-- `100` EMIT: a measurement is held for the consumer. -/
  | emit
  /-- `101` FAILED: the Byte Source failed. -/
  | failed
  /-- `110`, reserved. -/
  | reserved6
  /-- `111`, reserved. -/
  | reserved7
deriving DecidableEq, Repr

/-- The operations of the block (R65), one per row of the opcode table. -/
inductive Instr where
  /-- HUNT_ESC (R81). -/
  | huntEsc
  /-- HUNT_SOH (R82). -/
  | huntSoh
  /-- HUNT_COMPLETE (R84). -/
  | huntComplete
  /-- HUNT_MISMATCH of the byte `b` (R83). -/
  | huntMismatch (b : Byte)
  /-- ACC_ESC (R85). -/
  | accEsc
  /-- ACC_COLLAPSE (R86). -/
  | accCollapse
  /-- ACC_OTHER of the byte `b` (R87). -/
  | accOther (b : Byte)
  /-- TRL_BYTE of the byte `b` (R88). -/
  | trlByte (b : Byte)
  /-- VALIDATE_PASS (R105). -/
  | validatePass
  /-- VALIDATE_FAIL (R106). -/
  | validateFail
  /-- EMIT_ACCEPT (R134). -/
  | emitAccept
  /-- SRC_ERROR in the state `src`, the `sss` of its encoding (R141). -/
  | srcError (src : St)
  /-- RESET (R160). -/
  | reset
deriving DecidableEq, Repr

end Sys2Proof
end

