-- ==== Sys2Proof/WellFormed.lean ====
section
/-!
DEFINITION. Which operations the encoding admits: the guards of the opcode table that speak of the
operation's own fields alone.
-/

namespace Sys2Proof

/-- The states in which the block takes read results: the block's `s_ready` states (R33, R63). -/
def St.reads : St → Bool
  | .hunt | .acc | .trl => true
  | .val | .emit | .failed | .reserved6 | .reserved7 => false

/-- The two reserved codes (R66). -/
def St.isReserved : St → Bool
  | .reserved6 | .reserved7 => true
  | .hunt | .acc | .trl | .val | .emit | .failed => false

/-- An operation is well formed when its fields meet the guards of its row that mention no state:
ACC_OTHER takes every byte but `0x1B` (R87), SRC_ERROR is taken in HUNT, ACC or TRL (R141). -/
def Instr.wellFormed : Instr → Bool
  | .huntEsc => true
  | .huntSoh => true
  | .huntComplete => true
  | .huntMismatch _ => true
  | .accEsc => true
  | .accCollapse => true
  | .accOther b => decide (b ≠ Config.esc)
  | .trlByte _ => true
  | .validatePass => true
  | .validateFail => true
  | .emitAccept => true
  | .srcError src => src.reads
  | .reset => true

end Sys2Proof
end

