-- ==== Sys2Proof/Decode.lean ====
section
/-!
DEFINITION. Input words, event words, the decode of an event into an operation and its inverse
(30_encoding.md R60 to R66, `opcode_table.json`).
-/

namespace Sys2Proof

/-! ### Fields -/

/-- The 3-bit code of a state (R21). -/
def St.code : St → BitVec 3
  | .hunt => 0b000#3
  | .acc => 0b001#3
  | .trl => 0b010#3
  | .val => 0b011#3
  | .emit => 0b100#3
  | .failed => 0b101#3
  | .reserved6 => 0b110#3
  | .reserved7 => 0b111#3

/-- The state a 3-bit code names (R21); every code names one. -/
def St.ofCode (c : BitVec 3) : St :=
  match c.toNat with
  | 0 => .hunt
  | 1 => .acc
  | 2 => .trl
  | 3 => .val
  | 4 => .emit
  | 5 => .failed
  | 6 => .reserved6
  | _ => .reserved7

/-- The kinds of an event (R62). -/
inductive Kind where
  /-- `00`: a byte transfer from the Byte Source. -/
  | byte
  /-- `01`: a failure transfer. -/
  | error
  /-- `10`: a step with no transfer. -/
  | internal
  /-- `11`: the consumer accepts the measurement. -/
  | accept
deriving DecidableEq, Repr

/-- The 2-bit code of a kind (R62). -/
def Kind.code : Kind → BitVec 2
  | .byte => 0b00#2
  | .error => 0b01#2
  | .internal => 0b10#2
  | .accept => 0b11#2

/-- The kind a 2-bit code names (R62). -/
def Kind.ofCode (c : BitVec 2) : Kind :=
  match c.toNat with
  | 0 => .byte
  | 1 => .error
  | 2 => .internal
  | _ => .accept

/-- `EV = {st, kind, data}` (R62). -/
def mkEvent (st : St) (kind : Kind) (data : Byte) : EventWord := st.code ++ kind.code ++ data

/-- `EV[12:10]` (R62). -/
def evState (ev : EventWord) : St := St.ofCode (ev.extractLsb' 10 3)

/-- `EV[9:8]` (R62). -/
def evKind (ev : EventWord) : Kind := Kind.ofCode (ev.extractLsb' 8 2)

/-- `EV[7:0]` (R62). -/
def evData (ev : EventWord) : Byte := ev.extractLsb' 0 8

/-- `IW[8]`, `s_err`: the read result is a failure (R60). -/
def iwIsError (iw : InputWord) : Bool := iw.getLsbD 8

/-- `IW[7:0]`, `s_data`: the byte of a read result that is no failure (R60). -/
def iwData (iw : InputWord) : Byte := iw.extractLsb' 0 8

/-- The read result that delivers the byte `b` (R60, R71). -/
def byteResult (b : Byte) : InputWord := 0#1 ++ b

/-- The read result that reports a failure; `junk` is its ignored `IW[7:0]` (R60, I13). -/
def failResult (junk : Byte) : InputWord := 1#1 ++ junk

/-- `PAT(hc)`: the byte the hunt expects at count `hc` (R64). -/
def pat (hc : Count) : Byte := if hc.toNat < 4 then Config.esc else Config.soh

/-! ### Decode -/

/-- What selects one step: the `rst` input (the table's format RST1) or an event word (EV13) (R62). -/
inductive StepWord where
  | rst1 (rst : BitVec 1)
  | ev13 (ev : EventWord)
deriving DecidableEq, Repr

/-- What the guards of the decode read of the state: `hc`, `run` and `FrameValid(buf)` (R65). -/
structure Guards where
  hc : Count
  run : Count
  frameValid : Bool
deriving DecidableEq, Repr

/-- Why a word is no operation (R63, R66). -/
inductive DecodeError where
  /-- The event is not enabled in its state (R63, I11). -/
  | notEnabled
  /-- The event word's state code is `110` or `111` (R66, I7). -/
  | reservedState
deriving DecidableEq, Repr

/-- The decode of a BYTE event in HUNT: the first four lines of R65, in their order. -/
def decodeHunt (hc : Count) (b : Byte) : Instr :=
  if b = pat hc ∧ hc.toNat = 7 then .huntComplete
  else if b = Config.esc ∧ hc.toNat < 4 then .huntEsc
  else if b = Config.soh ∧ 4 ≤ hc.toNat ∧ hc.toNat < 7 then .huntSoh
  else .huntMismatch b

/-- The decode of a BYTE event in ACC (R65). -/
def decodeAcc (run : Count) (b : Byte) : Instr :=
  if b = Config.esc ∧ run.toNat = 7 then .accCollapse
  else if b = Config.esc ∧ run.toNat < 7 then .accEsc
  else .accOther b

/-- The decode of an event word (R65): `EV[7:0]` is read for a BYTE alone (R62, the table's masks; log
entry 15). -/
def decodeEvent (g : Guards) (ev : EventWord) : Except DecodeError Instr :=
  match evState ev, evKind ev with
  | .hunt, .byte => .ok (decodeHunt g.hc (evData ev))
  | .acc, .byte => .ok (decodeAcc g.run (evData ev))
  | .trl, .byte => .ok (.trlByte (evData ev))
  | .hunt, .error => .ok (.srcError .hunt)
  | .acc, .error => .ok (.srcError .acc)
  | .trl, .error => .ok (.srcError .trl)
  | .val, .internal => .ok (if g.frameValid then .validatePass else .validateFail)
  | .emit, .accept => .ok .emitAccept
  | .reserved6, _ => .error .reservedState
  | .reserved7, _ => .error .reservedState
  | _, _ => .error .notEnabled

/-- The decode of whatever selects a step: `rst` = 1 is RESET and overrides every event (R65, R160). -/
def decode (g : Guards) : StepWord → Except DecodeError Instr
  | .rst1 rst => if rst = 1#1 then .ok .reset else .error .notEnabled
  | .ev13 ev => decodeEvent g ev

/-! ### Encode -/

/-- The word of an operation, from the table's `match` column and its fields (R62, R81 to R88, R105,
R106, R134, R141, R160). -/
def encode : Instr → StepWord
  | .huntEsc => .ev13 (mkEvent .hunt .byte Config.esc)
  | .huntSoh => .ev13 (mkEvent .hunt .byte Config.soh)
  | .huntComplete => .ev13 (mkEvent .hunt .byte Config.soh)
  | .huntMismatch b => .ev13 (mkEvent .hunt .byte b)
  | .accEsc => .ev13 (mkEvent .acc .byte Config.esc)
  | .accCollapse => .ev13 (mkEvent .acc .byte Config.esc)
  | .accOther b => .ev13 (mkEvent .acc .byte b)
  | .trlByte b => .ev13 (mkEvent .trl .byte b)
  | .validatePass => .ev13 (mkEvent .val .internal 0#8)
  | .validateFail => .ev13 (mkEvent .val .internal 0#8)
  | .emitAccept => .ev13 (mkEvent .emit .accept 0#8)
  | .srcError src => .ev13 (mkEvent src .error 0#8)
  | .reset => .rst1 1#1

/-- The guard column of the opcode table over `hc`, `run` and the frame (R65): the part of an
operation's encoding that is not in its word. -/
def Instr.guardHolds (g : Guards) : Instr → Bool
  | .huntEsc => decide (g.hc.toNat < 4)
  | .huntSoh => decide (4 ≤ g.hc.toNat ∧ g.hc.toNat < 7)
  | .huntComplete => decide (g.hc.toNat = 7)
  | .huntMismatch b => decide (b ≠ pat g.hc)
  | .accEsc => decide (g.run.toNat < 7)
  | .accCollapse => decide (g.run.toNat = 7)
  | .accOther _ => true
  | .trlByte _ => true
  | .validatePass => g.frameValid
  | .validateFail => !g.frameValid
  | .emitAccept => true
  | .srcError _ => true
  | .reset => true

/-! ### The opcode table -/

/-- One row's word: `match` and `mask` of `opcode_table.json`. -/
structure TableRow where
  bits : EventWord
  mask : EventWord
deriving DecidableEq, Repr

/-- The row of an operation in `opcode_table.json`; RESET's row is the `rst` input and has no event word. -/
def Instr.tableRow : Instr → Option TableRow
  | .huntEsc => some ⟨0x001B#13, 0x1FFF#13⟩
  | .huntSoh => some ⟨0x0001#13, 0x1FFF#13⟩
  | .huntComplete => some ⟨0x0001#13, 0x1FFF#13⟩
  | .huntMismatch _ => some ⟨0x0000#13, 0x1F00#13⟩
  | .accEsc => some ⟨0x041B#13, 0x1FFF#13⟩
  | .accCollapse => some ⟨0x041B#13, 0x1FFF#13⟩
  | .accOther _ => some ⟨0x0400#13, 0x1F00#13⟩
  | .trlByte _ => some ⟨0x0800#13, 0x1F00#13⟩
  | .validatePass => some ⟨0x0E00#13, 0x1F00#13⟩
  | .validateFail => some ⟨0x0E00#13, 0x1F00#13⟩
  | .emitAccept => some ⟨0x1300#13, 0x1F00#13⟩
  | .srcError _ => some ⟨0x0100#13, 0x0300#13⟩
  | .reset => none

/-- The guards under which a bare event word is read where no state is given (the host's table words):
the values nearest the reset state at which the word is not a hunt mismatch, or is one where it can be
nothing else. DESIGN CHOICE, log entry 10. -/
def tableGuards (ev : EventWord) : Guards :=
  { hc := if evData ev = Config.soh then 4#3 else 0#3
    run := 0#3
    frameValid := false }

/-- The step word of a table word: up to 8 bits it is the `rst` input (RST1), above that an event word
in the low 13 bits of its bytes (log entry 15). -/
def tableStepWord (nbits w : Nat) : StepWord :=
  if nbits ≤ 8 then .rst1 (BitVec.ofNat 1 w) else .ev13 (BitVec.ofNat 13 w)

/-- The operation the decoder reads from a row's word, under `tableGuards`. -/
def decodeTableWord (nbits w : Nat) : Option Instr :=
  match tableStepWord nbits w with
  | .rst1 rst => (decode ⟨0#3, 0#3, false⟩ (.rst1 rst)).toOption
  | .ev13 ev => (decode (tableGuards ev) (.ev13 ev)).toOption

end Sys2Proof
end

