-- ==== Sys2Proof/Machine/State.lean ====
section
/-!
DEFINITION. The state of one SFS instance (10_state.md R20 to R34), what its environment is about to
do (R53, R162 to R171), the ways a step can stop, and the state after reset (R34, R160).
-/

namespace Sys2Proof.Machine

/-- The frame buffer `buf` (R25): the written bytes as (index, byte) pairs, indices strictly rising.
An unlisted index is an unwritten byte, which holds no value. -/
abbrev Memory := List Host.Cell

/-- The measurement record `m_rec` (R26): raw integers at their table widths. -/
structure Measurement where
  /-- `m_seconds_index`, unsigned. -/
  secondsIndex : BitVec 32
  /-- `m_energy_count`, two's complement, value × 10^-7 kWh. -/
  energyCount : BitVec 64
  /-- `m_power`, two's complement, value × 10^-2 W. -/
  power : BitVec 64
  /-- `m_power_l1`, two's complement, value × 10^-2 W. -/
  powerL1 : BitVec 64
  /-- `m_power_l2`, two's complement, value × 10^-2 W. -/
  powerL2 : BitVec 64
  /-- `m_power_l3`, two's complement, value × 10^-2 W. -/
  powerL3 : BitVec 64
  /-- `m_voltage_l1`, unsigned, value × 10^-1 V. -/
  voltageL1 : BitVec 16
  /-- `m_voltage_l2`, unsigned, value × 10^-1 V. -/
  voltageL2 : BitVec 16
  /-- `m_voltage_l3`, unsigned, value × 10^-1 V. -/
  voltageL3 : BitVec 16
  /-- `m_timestamp`: `ts_in` as sampled at decode. -/
  timestamp : BitVec Config.tsW
deriving DecidableEq, Repr

/-- What the environment does at one rising edge of `clk` (R33, R170, R171): everything but the read
result itself, which is the head of `State.stream`. -/
structure Tick where
  /-- The `rst` input. -/
  rst : Bool
  /-- The Byte Source offers its next read result: `s_valid` = 1 if it has one (log entry 5). -/
  offer : Bool
  /-- The `m_ready` input. -/
  mReady : Bool
  /-- The validation has finished by this edge: how many edges that takes is `VALIDATE_LATENCY`, which
  the spec leaves open (R167; log entry 6); read in VAL alone. -/
  valDone : Bool
  /-- The `ts_in` input (R132, R165). -/
  tsIn : BitVec Config.tsW
deriving DecidableEq, Repr

/-- The state of one SFS instance, and of the agents on its ports. -/
structure State where
  /-- `st`, the state register (R21). -/
  st : St
  /-- `hc`, the hunt counter (R22): 0 outside HUNT (R31), but in FAILED the value it had (R141; log entry 8). -/
  hc : Count
  /-- `run`, the run counter (R23). -/
  run : Count
  /-- `pos`, the write index (R24). -/
  pos : Index
  /-- `buf`, the frame buffer (R25). -/
  buf : Memory
  /-- `m_valid`: a measurement is held for the consumer (R27). -/
  mValid : Bool
  /-- `m_rec`, the measurement output register (R26). -/
  mRec : Measurement
  /-- `io_error`: the Byte Source failed (R27). -/
  ioError : Bool
  /-- `diag_valid` as the last edge drove it: a per-step output, not state of the block (R28; log entry 9). -/
  diagValid : Bool
  /-- `diag_reason` as the last edge drove it (R28; log entry 9). -/
  diagReason : Reason
  /-- `ts_in` as sampled at the present edge: an input port's level (R132; log entries 5, 16). -/
  tsIn : BitVec Config.tsW
  /-- The Byte Source: the read results it has still to deliver, in order (R53, R60, R164; log entries 5, 16). -/
  stream : List InputWord
  /-- The environment: what it does at the coming edges, in order (R170, R171; log entries 5, 16). -/
  ticks : List Tick
  /-- The MODEL's own: how many free values have been drawn (log entries 4, 16). -/
  freeCount : Nat
deriving DecidableEq, Repr

/-- Why the machine stops with a fault. No state with the invariant R31 reaches one. -/
inductive Fault where
  /-- A read of a frame buffer byte that nothing has written since reset. Raised by every read of
  `buf`; safe: the spec makes it this fault (R9, R25, I5; log entry 7). -/
  | unwrittenRead (index : Nat)
  /-- An access to an index outside [0, 404). Raised by every read and write of `buf`; safe: such an
  index does not exist (R40; log entry 12). -/
  | noSuchIndex (index : Nat)
  /-- A step with `st` = `110` or `111` and no reset. Raised by `step` and by every operation but
  RESET; safe: the spec makes it this fault (R66, D22, I7; log entry 13). -/
  | reservedState
deriving DecidableEq, Repr

/-- Why an instruction gets no meaning. -/
inductive Refusal where
  /-- The instruction of that name is not modelled. Raised by `exec`'s refused arms alone; safe. -/
  | notModelled (mnemonic : String)
  /-- The operation is not the one its state and guards select (R63, R65, I11: the ports make it
  impossible; `refuse`; log entry 11). Raised by the guards of `exec`'s meanings and by the stimulus
  runner; safe. -/
  | notEnabled
deriving DecidableEq, Repr

/-- The record `State.reset` holds. The spec leaves it unspecified (R34): DESIGN CHOICE, log entry 3. -/
def Measurement.zero : Measurement :=
  ⟨0#32, 0#64, 0#64, 0#64, 0#64, 0#64, 0#16, 0#16, 0#16, 0#_⟩

/-- The machine right after reset (R34), with an environment that has nothing to offer yet. -/
def State.reset : State :=
  { st := .hunt
    hc := 0#3
    run := 0#3
    pos := 0#9
    buf := []
    mValid := false
    mRec := Measurement.zero
    ioError := false
    diagValid := false
    diagReason := 0b00#2
    tsIn := 0#_
    stream := []
    ticks := []
    freeCount := 0 }

end Sys2Proof.Machine
end

