-- ==== Sys2Proof/Machine/Ops.lean ====
section
/-!
DEFINITION. The named operations the meanings share: the frame buffer (20_memory.md), the guard of an
operation, the entry to the hunt (R80) and the two error events (60_exceptions.md R140 to R146).
-/

namespace Sys2Proof.Machine

/-! ### The frame buffer -/

/-- The canonical form: indices strictly rising and inside [0, 404). An unlisted index reads as no
value, so no entry can equal what an unlisted index reads as. -/
abbrev Memory.wf (m : Memory) : Prop :=
  m.Pairwise (fun a b => a.1 < b.1) ∧ ∀ c ∈ m, c.1 < Config.frameLen

/-- The value at an index, `none` where the byte is unwritten (R25). -/
def Memory.read? : Memory → Nat → Option Byte
  | [], _ => none
  | (a, v) :: m, i => if a = i then some v else Memory.read? m i

/-- `buf[i] <- v` in the sorted list. -/
def Memory.write : Memory → Nat → Byte → Memory
  | [], i, v => [(i, v)]
  | (a, w) :: m, i, v =>
    if i < a then (i, v) :: (a, w) :: m
    else if i = a then (i, v) :: m
    else (a, w) :: Memory.write m i v

/-- `buf[i]` (R9): a fault where the index does not exist (R40) or the byte is unwritten (R25). -/
def Memory.get (m : Memory) (i : Nat) : Except Fault Byte :=
  if i < Config.frameLen then
    match m.read? i with
    | some v => .ok v
    | none => .error (.unwrittenRead i)
  else .error (.noSuchIndex i)

/-- `MemRead(i, n)` (R9): `buf[i], …, buf[i+n-1]`. -/
def Memory.getBytes (m : Memory) (i : Nat) : Nat → Except Fault (List Byte)
  | 0 => .ok []
  | n + 1 =>
    match m.get i, Memory.getBytes m (i + 1) n with
    | .ok b, .ok bs => .ok (b :: bs)
    | .error f, _ => .error f
    | .ok _, .error f => .error f

/-- `MemWrite(i, 1, v)` (R9): a fault where the index does not exist (R40). -/
def Memory.put (m : Memory) (i : Nat) (v : Byte) : Except Fault Memory :=
  if i < Config.frameLen then .ok (m.write i v) else .error (.noSuchIndex i)

/-- Byte strings written at rising indices from `i` on (R84). -/
def Memory.putBytes (m : Memory) (i : Nat) : List Byte → Except Fault Memory
  | [] => .ok m
  | v :: vs =>
    match m.put i v with
    | .ok m' => Memory.putBytes m' (i + 1) vs
    | .error f => .error f

/-- A buffer that holds `bs` at [i, i + length) and nothing else. -/
def Memory.ofBytes (i : Nat) : List Byte → Memory
  | [] => []
  | b :: bs => (i, b) :: Memory.ofBytes (i + 1) bs

/-! ### Outcomes -/

/-- The answer of a step. -/
abbrev Answer := Host.Outcome State Fault Refusal

/-- Continue with a value, or stop with its fault. -/
def orFault {α : Type} (x : Except Fault α) (k : α → Answer) : Answer :=
  match x with
  | .ok a => k a
  | .error f => .fault f

/-- An operation runs where its state and guard select it (R63, R65). In a reserved state it is the
fault of R66; anywhere else the event cannot occur, and the model refuses it (I11). -/
def guarded (s : State) (selects : Bool) (answer : Answer) : Answer :=
  if s.st.isReserved then .fault .reservedState
  else if selects then answer
  else .refused .notEnabled

/-! ### Shared effects -/

/-- The diagnostic outputs of a step that raises no FrameCorruption (R28). -/
def State.noDiag (s : State) : State := { s with diagValid := false, diagReason := 0b00#2 }

/-- `EnterHunt()` (R80): all progress of the candidate frame is discarded, `buf` is not cleared. -/
def State.enterHunt (s : State) : State :=
  { s with st := .hunt, hc := 0#3, run := 0#3, pos := 0#9 }

/-- The byte `b` goes to `buf[pos]` and `pos` becomes `pos'` (R85 to R88). -/
def State.storeByte (s : State) (b : Byte) (pos' : Index) : Except Fault State :=
  match s.buf.put s.pos.toNat b with
  | .ok m => .ok { s with buf := m, pos := pos' }
  | .error f => .error f

/-- The state register once `pos` has moved on: `next` when the new `pos` is `limit` (R85, R87, R88). -/
def State.moveAt (s : State) (limit : Nat) (next : St) : State :=
  { s with st := if s.pos.toNat = limit then next else s.st }

/-! ### The two error events (R140) -/

/-- The reasons of a FrameCorruption (R140). -/
inductive Corruption where
  /-- `EM_OK` is false. -/
  | endMarkerMismatch
  /-- `EM_OK` is true and `CRC_OK` is false. -/
  | crcMismatch
deriving DecidableEq, Repr

/-- The code of a reason on `diag_reason` (R28, R140). -/
def Corruption.code : Corruption → Reason
  | .endMarkerMismatch => 0b01#2
  | .crcMismatch => 0b10#2

/-- `emit DIAG(reason)` and `raise FrameCorruption(reason)` (R106, R143): nothing is saved, the reason
is driven for this one step, and control goes to the start of the hunt. There is no return (R146). -/
def State.raiseFrameCorruption (s : State) (r : Corruption) : State :=
  { s.enterHunt with diagValid := true, diagReason := r.code }

/-- `raise SourceError` (R141): `io_error` is set and the block stays in FAILED until reset (R142); the counters
keep their values, `hc` too (log entry 8). -/
def State.raiseSourceError (s : State) : State :=
  { s.noDiag with ioError := true, st := .failed }

/-! ### Free values -/

/-- A record made of free bits, field after field from the most significant bit. -/
def Measurement.ofBits (b : BitVec (400 + Config.tsW)) : Measurement :=
  { secondsIndex := b.extractLsb' (368 + Config.tsW) 32
    energyCount := b.extractLsb' (304 + Config.tsW) 64
    power := b.extractLsb' (240 + Config.tsW) 64
    powerL1 := b.extractLsb' (176 + Config.tsW) 64
    powerL2 := b.extractLsb' (112 + Config.tsW) 64
    powerL3 := b.extractLsb' (48 + Config.tsW) 64
    voltageL1 := b.extractLsb' (32 + Config.tsW) 16
    voltageL2 := b.extractLsb' (16 + Config.tsW) 16
    voltageL3 := b.extractLsb' Config.tsW 16
    timestamp := b.extractLsb' 0 Config.tsW }

/-- The unspecified `m_rec` of a RESET (R160): a fresh free value for each. Log entry 4. -/
def State.drawRec (s : State) : State :=
  { s with mRec := Measurement.ofBits (Config.freeRecBits s.freeCount), freeCount := s.freeCount + 1 }

end Sys2Proof.Machine
end

