-- ==== Sys2Proof/Machine/Accumulate.lean ====
section
/-!
DEFINITION. Payload accumulation: ACC_ESC, ACC_COLLAPSE, ACC_OTHER (40_synchronizer.md R85 to R87).
-/

namespace Sys2Proof.Machine

/-- ACC_ESC (R85): a payload byte `0x1B` that does not complete a run of 8. -/
def execAccEsc (s : State) : Answer :=
  guarded s (decide (s.st = .acc ∧ s.run.toNat < 7)) <|
    orFault (s.noDiag.storeByte Config.esc (s.pos + 1)) fun s' =>
      .next { s'.moveAt Config.payloadEnd .trl with run := s.run + 1 }

/-- ACC_COLLAPSE (R86): the eighth consecutive `0x1B`; the write index goes back by 4 and `st` stays ACC. -/
def execAccCollapse (s : State) : Answer :=
  guarded s (decide (s.st = .acc ∧ s.run.toNat = 7)) <|
    orFault (s.noDiag.storeByte Config.esc (s.pos + 1 - BitVec.ofNat 9 Config.escRewind)) fun s' =>
      .next { s' with run := 0#3 }

/-- ACC_OTHER (R87): any payload byte other than `0x1B`. -/
def execAccOther (b : Byte) (s : State) : Answer :=
  guarded s (decide (s.st = .acc ∧ b ≠ Config.esc)) <|
    orFault (s.noDiag.storeByte b (s.pos + 1)) fun s' =>
      .next { s'.moveAt Config.payloadEnd .trl with run := 0#3 }

end Sys2Proof.Machine
end

