-- ==== Sys2Proof/Machine/Emit.lean ====
section
/-!
DEFINITION. The measurement output: EMIT_ACCEPT (42_field_demux.md R134).
-/

namespace Sys2Proof.Machine

/-- EMIT_ACCEPT (R134): the consumer takes the measurement; `m_rec` keeps its value (log entry 18). -/
def execEmitAccept (s : State) : Answer :=
  guarded s (decide (s.st = .emit)) (.next { s.noDiag.enterHunt with mValid := false })

end Sys2Proof.Machine
end

