-- ==== Sys2Proof/Machine/Hunt.lean ====
section
/-!
DEFINITION. The start hunt: HUNT_ESC, HUNT_SOH, HUNT_COMPLETE, HUNT_MISMATCH (40_synchronizer.md R81 to R84).
-/

namespace Sys2Proof.Machine

/-- HUNT_ESC (R81): `hc <- hc + 1`. -/
def execHuntEsc (s : State) : Answer :=
  guarded s (decide (s.st = .hunt ∧ s.hc.toNat < 4)) (.next { s.noDiag with hc := s.hc + 1 })

/-- HUNT_SOH (R82): `hc <- hc + 1`. -/
def execHuntSoh (s : State) : Answer :=
  guarded s (decide (s.st = .hunt ∧ 4 ≤ s.hc.toNat ∧ s.hc.toNat < 7)) (.next { s.noDiag with hc := s.hc + 1 })

/-- HUNT_COMPLETE (R84): the start marker is captured and accumulation begins. -/
def execHuntComplete (s : State) : Answer :=
  guarded s (decide (s.st = .hunt ∧ s.hc.toNat = 7)) <|
    orFault (s.buf.putBytes 0 Config.startMarker) fun m =>
      .next { s.noDiag with buf := m, pos := BitVec.ofNat 9 Config.startLen, run := 0#3, hc := 0#3, st := .acc }

/-- HUNT_MISMATCH (R83): `hc <- 0`; the byte is discarded and not compared again (D9). -/
def execHuntMismatch (b : Byte) (s : State) : Answer :=
  guarded s (decide (s.st = .hunt ∧ b ≠ pat s.hc)) (.next { s.noDiag with hc := 0#3 })

end Sys2Proof.Machine
end

