-- ==== Sys2Proof/Machine/Reset.lean ====
section
/-!
DEFINITION. RESET (70_reset_and_hazards.md R160).
-/

namespace Sys2Proof.Machine

/-- RESET (R160): the values of R34; `m_rec` becomes a fresh free value (log entry 4). It overrides
every event and leaves every state, the reserved ones too. -/
def execReset (s : State) : Answer :=
  .next { s.noDiag.enterHunt.drawRec with buf := [], mValid := false, ioError := false }

end Sys2Proof.Machine
end

