-- ==== Sys2Proof/Machine/SourceError.lean ====
section
/-!
DEFINITION. The Byte Source failure: SRC_ERROR (60_exceptions.md R141).
-/

namespace Sys2Proof.Machine

/-- SRC_ERROR (R141): `hc`, `run`, `pos`, `buf` and `m_rec` are kept (log entry 8). It is taken in the
reading states alone, and `src` is the state it is taken in. -/
def execSrcError (src : St) (s : State) : Answer :=
  guarded s (decide (s.st = src) && src.reads) (.next s.raiseSourceError)

end Sys2Proof.Machine
end

