-- ==== Sys2Proof/Machine/Trailer.lean ====
section
/-!
DEFINITION. The trailer read: TRL_BYTE (40_synchronizer.md R88).
-/

namespace Sys2Proof.Machine

/-- TRL_BYTE (R88): a trailer byte, stored raw; `run` is neither read nor changed. -/
def execTrlByte (b : Byte) (s : State) : Answer :=
  guarded s (decide (s.st = .trl)) <|
    orFault (s.noDiag.storeByte b (s.pos + 1)) fun s' => .next (s'.moveAt Config.frameLen .val)

end Sys2Proof.Machine
end

