-- ==== Sys2Proof/Machine/Operands.lean ====
section
/-!
DEFINITION. Operand assembly and the field demultiplexer: big-endian integers at fixed offsets, the
field table, the measurement record (30_encoding.md R70, 42_field_demux.md R120 to R132).
-/

namespace Sys2Proof.Machine

/-! ### Big-endian integers -/

/-- `BEu` of a byte string (R9): most significant byte first. -/
def beU (bs : List Byte) : Nat := bs.foldl (fun n b => n * 256 + b.toNat) 0

/-- `BEs` of a byte string (R9): `BEu - 2^(8n)` if its first byte is `0x80` or more. -/
def beS (bs : List Byte) : Int :=
  match bs with
  | [] => 0
  | b :: _ => if 0x80 ≤ b.toNat then (beU bs : Int) - 2 ^ (8 * bs.length) else (beU bs : Int)

/-! ### The field table -/

/-- The nine fields (R120). -/
inductive FrameField where
  | secondsIndex | energyCount | power | powerL1 | powerL2 | powerL3 | voltageL1 | voltageL2 | voltageL3
deriving DecidableEq, Repr

/-- The units of R120. -/
inductive FieldUnit where
  | count | kWh | watt | volt
deriving DecidableEq, Repr

/-- A row of the field table (R120). -/
structure FieldRow where
  offset : Nat
  width : Nat
  signed : Bool
  /-- The decimal exponent `e`: the field stands for `raw × 10^e` (R131). -/
  exponent : Int
  unit : FieldUnit
deriving DecidableEq, Repr

/-- The field table, row by row (R120). Its widths sum to 50 bytes, the 400 bits of R26; where R121 and R135
say 46 the table is followed (DEDUCED, log entry 22). -/
def FrameField.row : FrameField → FieldRow
  | .secondsIndex => ⟨104, 4, false, 0, .count⟩
  | .energyCount => ⟨168, 8, true, -7, .kWh⟩
  | .power => ⟨192, 8, true, -2, .watt⟩
  | .powerL1 => ⟨216, 8, true, -2, .watt⟩
  | .powerL2 => ⟨240, 8, true, -2, .watt⟩
  | .powerL3 => ⟨264, 8, true, -2, .watt⟩
  | .voltageL1 => ⟨288, 2, false, -1, .volt⟩
  | .voltageL2 => ⟨306, 2, false, -1, .volt⟩
  | .voltageL3 => ⟨324, 2, false, -1, .volt⟩

/-- The nine fields in the order of the table. -/
def FrameField.all : List FrameField :=
  [.secondsIndex, .energyCount, .power, .powerL1, .powerL2, .powerL3, .voltageL1, .voltageL2, .voltageL3]

/-- The integer of a field's bytes: `BEu` or `BEs` as its row says (R70, R120). -/
def FrameField.ofBytes (f : FrameField) (bs : List Byte) : Int := if f.row.signed then beS bs else (beU bs : Int)

/-- The raw integer of a field in the frame buffer (R122 to R130). -/
def FrameField.raw (f : FrameField) (m : Memory) : Except Fault Int :=
  (m.getBytes f.row.offset f.row.width).map f.ofBytes

/-- The exact value a raw integer of the field stands for, in the unit of its row (R131). -/
def FrameField.exactValue (f : FrameField) (raw : Int) : ℚ := (raw : ℚ) * (10 : ℚ) ^ f.row.exponent

/-- The raw integer a record holds for a field: its output port, read as its row's signedness says (R26). -/
def Measurement.raw (r : Measurement) : FrameField → Int
  | .secondsIndex => r.secondsIndex.toNat
  | .energyCount => r.energyCount.toInt
  | .power => r.power.toInt
  | .powerL1 => r.powerL1.toInt
  | .powerL2 => r.powerL2.toInt
  | .powerL3 => r.powerL3.toInt
  | .voltageL1 => r.voltageL1.toNat
  | .voltageL2 => r.voltageL2.toNat
  | .voltageL3 => r.voltageL3.toNat

/-! ### The fields (R122 to R130) -/

/-- `SECONDS_INDEX(buf)` (R122). -/
def secondsIndexOf (m : Memory) : Except Fault (BitVec 32) := (FrameField.secondsIndex.raw m).map (BitVec.ofInt 32)

/-- `ENERGY_COUNT(buf)` (R123). -/
def energyCountOf (m : Memory) : Except Fault (BitVec 64) := (FrameField.energyCount.raw m).map (BitVec.ofInt 64)

/-- `POWER(buf)` (R124). -/
def powerOf (m : Memory) : Except Fault (BitVec 64) := (FrameField.power.raw m).map (BitVec.ofInt 64)

/-- `POWER_L1(buf)` (R125). -/
def powerL1Of (m : Memory) : Except Fault (BitVec 64) := (FrameField.powerL1.raw m).map (BitVec.ofInt 64)

/-- `POWER_L2(buf)` (R126). -/
def powerL2Of (m : Memory) : Except Fault (BitVec 64) := (FrameField.powerL2.raw m).map (BitVec.ofInt 64)

/-- `POWER_L3(buf)` (R127). -/
def powerL3Of (m : Memory) : Except Fault (BitVec 64) := (FrameField.powerL3.raw m).map (BitVec.ofInt 64)

/-- `VOLTAGE_L1(buf)` (R128). -/
def voltageL1Of (m : Memory) : Except Fault (BitVec 16) := (FrameField.voltageL1.raw m).map (BitVec.ofInt 16)

/-- `VOLTAGE_L2(buf)` (R129). -/
def voltageL2Of (m : Memory) : Except Fault (BitVec 16) := (FrameField.voltageL2.raw m).map (BitVec.ofInt 16)

/-- `VOLTAGE_L3(buf)` (R130). -/
def voltageL3Of (m : Memory) : Except Fault (BitVec 16) := (FrameField.voltageL3.raw m).map (BitVec.ofInt 16)

/-- `Decode(buf, ts)` (R121, R132). It reads the 50 bytes of the table's fields, not the 46 of R121's sentence
(DEDUCED, log entry 22). -/
def decodeFrame (m : Memory) (ts : BitVec Config.tsW) : Except Fault Measurement := do
  let secondsIndex ← secondsIndexOf m
  let energyCount ← energyCountOf m
  let power ← powerOf m
  let powerL1 ← powerL1Of m
  let powerL2 ← powerL2Of m
  let powerL3 ← powerL3Of m
  let voltageL1 ← voltageL1Of m
  let voltageL2 ← voltageL2Of m
  let voltageL3 ← voltageL3Of m
  return { secondsIndex, energyCount, power, powerL1, powerL2, powerL3,
           voltageL1, voltageL2, voltageL3, timestamp := ts }

end Sys2Proof.Machine
end

