-- ==== Sys2Proof/Machine/Flags.lean ====
section
/-!
DEFINITION. The computed flags: the two checks of the validator (41_validator.md R102 to R107) and the
ports of R33 as R170 drives them.
-/

namespace Sys2Proof.Machine

/-! ### The validator's checks -/

/-- `EM_OK` (R102). -/
def emOk (m : Memory) : Except Fault Bool :=
  (m.getBytes Config.endMarkerAt Config.endMarker.length).map fun bs => decide (bs = Config.endMarker)

/-- `CRC_OK` (R103): the checksum of the span against the embedded big-endian value. -/
def crcOk (m : Memory) : Except Fault Bool :=
  match m.getBytes Config.crcLo (Config.crcHi - Config.crcLo), m.getBytes Config.crcField 2 with
  | .ok span, .ok field => .ok (decide ((Config.crc16Fn span).toNat = beU field))
  | .error f, _ => .error f
  | .ok _, .error f => .error f

/-- `FrameValid(buf)` (R104). -/
def frameValid (m : Memory) : Except Fault Bool :=
  match emOk m, crcOk m with
  | .ok em, .ok crc => .ok (em && crc)
  | .error f, _ => .error f
  | .ok _, .error f => .error f

/-- The reason of a frame that is not valid: the end marker's where both checks fail (R106, R107). -/
def corruptionOf (m : Memory) : Except Fault Corruption :=
  (emOk m).map fun em => if em then .crcMismatch else .endMarkerMismatch

/-! ### The ports (R33, R170) -/

/-- `s_valid`: the Byte Source offers a read result at this edge. -/
def State.sValid (s : State) (t : Tick) : Bool := t.offer && !s.stream.isEmpty

/-- `s_err` of the offered result. -/
def State.sErr (s : State) : Bool := iwIsError (s.stream.headD 0#9)

/-- `s_data` of the offered result. -/
def State.sData (s : State) : Byte := iwData (s.stream.headD 0#9)

/-- `s_ready`: 1 exactly in HUNT, ACC and TRL with `rst` = 0. -/
def State.sReady (s : State) (t : Tick) : Bool := s.st.reads && !t.rst

/-- The `m_valid` port: driven 0 while `rst` = 1. -/
def State.mValidPort (s : State) (t : Tick) : Bool := s.mValid && !t.rst

/-- The `io_error` port (R170). -/
def State.ioErrorPort (s : State) : Bool := decide (s.st = .failed)

/-- A read result is transferred at this edge: `s_valid` and `s_ready` (R33). -/
def State.transfers (s : State) (t : Tick) : Bool := s.sValid t && s.sReady t

/-- A measurement is accepted at this edge: `m_valid` and `m_ready` (R33). -/
def State.accepts (s : State) (t : Tick) : Bool := s.mValidPort t && t.mReady

end Sys2Proof.Machine
end

