-- ==== Sys2Proof/Machine/Validate.lean ====
section
/-!
DEFINITION. The validation step: VALIDATE_PASS and VALIDATE_FAIL (41_validator.md R105 to R107).
-/

namespace Sys2Proof.Machine

/-- The guard of the two operations: in VAL, with `FrameValid(buf)` as wanted (R65). -/
def whenFrame (s : State) (valid : Bool) (answer : Answer) : Answer :=
  guarded s (decide (s.st = .val)) <|
    orFault (frameValid s.buf) fun v => guarded s (v == valid) answer

/-- VALIDATE_PASS (R105): the measurement is latched and offered to the consumer. -/
def execValidatePass (s : State) : Answer :=
  whenFrame s true <|
    orFault (decodeFrame s.buf s.tsIn) fun r =>
      .next { s.noDiag with mRec := r, mValid := true, st := .emit }

/-- VALIDATE_FAIL (R106): the candidate frame is discarded and the hunt restarts. -/
def execValidateFail (s : State) : Answer :=
  whenFrame s false <|
    orFault (corruptionOf s.buf) fun r => .next (s.raiseFrameCorruption r)

end Sys2Proof.Machine
end

