-- ==== Sys2Proof/Machine/Dispatch.lean ====
section
/-!
DEFINITION. The dispatch: one arm per operation of the opcode table.
-/

namespace Sys2Proof.Machine

def exec (i : Instr) (s : State) : Host.Outcome State Fault Refusal :=
  match i with
  | .huntEsc => Sys2Proof.Machine.execHuntEsc s
  | .huntSoh => Sys2Proof.Machine.execHuntSoh s
  | .huntComplete => Sys2Proof.Machine.execHuntComplete s
  | .huntMismatch b => Sys2Proof.Machine.execHuntMismatch b s
  | .accEsc => Sys2Proof.Machine.execAccEsc s
  | .accCollapse => Sys2Proof.Machine.execAccCollapse s
  | .accOther b => Sys2Proof.Machine.execAccOther b s
  | .trlByte b => Sys2Proof.Machine.execTrlByte b s
  | .validatePass => Sys2Proof.Machine.execValidatePass s
  | .validateFail => Sys2Proof.Machine.execValidateFail s
  | .emitAccept => Sys2Proof.Machine.execEmitAccept s
  | .srcError src => Sys2Proof.Machine.execSrcError src s
  | .reset => Sys2Proof.Machine.execReset s

end Sys2Proof.Machine
end

