-- ==== Sys2Proof/Machine/Fetch.lean ====
section
/-!
DEFINITION. What a rising edge of `clk` selects (70_reset_and_hazards.md R170, 30_encoding.md R60 to
R66): the step word at the ports, its decode under the guards of the state, and what the edge does to
the environment's side.
-/

namespace Sys2Proof.Machine

/-- The step word at the ports, in the order of R170; `none` where the edge is no step. The event word
of a failure carries `0x00` whatever `s_data` is (R62, I13). ACCEPT is taken in EMIT as R170 says, where
`m_valid` is 1 (log entry 14). -/
def fetch (s : State) (t : Tick) : Option StepWord :=
  if t.rst then some (.rst1 1#1)
  else if s.transfers t then
    some (.ev13 (if s.sErr then mkEvent s.st .error 0#8 else mkEvent s.st .byte s.sData))
  else
    match s.st with
    | .val => if t.valDone then some (.ev13 (mkEvent .val .internal 0#8)) else none
    | .emit => if t.mReady then some (.ev13 (mkEvent .emit .accept 0#8)) else none
    | .hunt | .acc | .trl | .failed | .reserved6 | .reserved7 => none

/-- What the guards of the decode read (R65). The frame is looked at for an event in VAL alone. -/
def guardsAt (s : State) : StepWord → Except Fault Guards
  | .rst1 _ => .ok ⟨s.hc, s.run, false⟩
  | .ev13 _ =>
    if s.st = .val then (frameValid s.buf).map fun v => ⟨s.hc, s.run, v⟩
    else .ok ⟨s.hc, s.run, false⟩

/-- The operation a step word selects in a state (R65), or the stop it comes to. -/
def select (s : State) (w : StepWord) : Host.Outcome Instr Fault Refusal :=
  match guardsAt s w with
  | .error f => .fault f
  | .ok g =>
    match decode g w with
    | .ok i => .next i
    | .error .reservedState => .fault .reservedState
    | .error .notEnabled => .refused .notEnabled

/-- The environment's side of an edge: the tick is over, `ts_in` has been sampled, and a read result
that was transferred is gone from the stream, each exactly once (R53). -/
def State.advance (s : State) (t : Tick) : State :=
  { s with
    ticks := s.ticks.tail
    tsIn := t.tsIn
    stream := if s.transfers t then s.stream.tail else s.stream }

/-- An edge that is no step: all state is held and no diagnostic is driven (R28, R170). A reserved
state is a fault at every edge but a reset (R66). -/
def idle (s : State) : Answer :=
  if s.st.isReserved then .fault .reservedState else .next s.noDiag

/-! ### Placing a table word -/

/-- A tick that does nothing. -/
def Tick.quiet : Tick := ⟨false, false, false, false, 0#_⟩

/-- A frame of zeros: a buffer with every byte written, as VAL has it (R31). -/
def zeroFrame : Memory := Memory.ofBytes 0 (List.replicate Config.frameLen 0#8)

/-- The input ports such that the next edge is the reset step (or no step, for `rst` = 0). -/
def State.withReset (s : State) (rst : BitVec 1) : State :=
  { s with ticks := { Tick.quiet with rst := decide (rst = 1#1) } :: s.ticks }

/-- The event on the ports: the byte or failure offered, the validation finished, the consumer ready. -/
def State.withEventKind (s : State) (k : Kind) (data : Byte) : State :=
  match k with
  | .byte => { s with stream := byteResult data :: s.stream, ticks := { Tick.quiet with offer := true } :: s.ticks }
  | .error => { s with stream := failResult data :: s.stream, ticks := { Tick.quiet with offer := true } :: s.ticks }
  | .internal => { s with ticks := { Tick.quiet with valDone := true } :: s.ticks }
  | .accept => { s with ticks := { Tick.quiet with mReady := true } :: s.ticks }

/-- The state an event word names, with what the guards of `tableGuards` need: the counters of a BYTE
in HUNT or ACC, a written frame in VAL, a held measurement in EMIT. -/
def State.withEventState (s : State) (ev : EventWord) : State :=
  let s := { s with st := evState ev }
  match evState ev with
  | .hunt => { s with hc := (tableGuards ev).hc }
  | .acc => { s with run := (tableGuards ev).run }
  | .val => { s with buf := zeroFrame }
  | .emit => { s with mValid := true }
  | .trl | .failed | .reserved6 | .reserved7 => s

/-- The step word of a table word placed where the next edge finds it. -/
def State.withStepWord (s : State) : StepWord → State
  | .rst1 rst => s.withReset rst
  | .ev13 ev => (s.withEventState ev).withEventKind (evKind ev) (evData ev)

end Sys2Proof.Machine
end

