-- ==== Sys2Proof/Machine/Step.lean ====
section
/-!
DEFINITION. One step: one rising edge of `clk` (00_scope.md R10, 70_reset_and_hazards.md R170).
-/

namespace Sys2Proof.Machine

/-- One edge. Where the environment has no further edge to give, nothing happens (R152; log entry 17). -/
def step (s : State) : Host.Outcome State Fault Refusal :=
  match s.ticks with
  | [] => .next s
  | t :: _ =>
    match fetch s t with
    | none => idle (s.advance t)
    | some w =>
      match select s w with
      | .next i => exec i (s.advance t)
      | .fault f => .fault f
      | .refused r => .refused r

/-- The state in which the next step takes the event of a table word (log entry 10). -/
def State.withFetchWord (s : State) (nbits w : Nat) : State := s.withStepWord (tableStepWord nbits w)

end Sys2Proof.Machine
end

