-- ==== Sys2Proof/Safety.lean ====
section
/-!
DEFINITION. What holds between steps (10_state.md R31), what a run shows (70_reset_and_hazards.md R169)
and how the Byte Source's stream is written, in the terms the statements use.
-/

namespace Sys2Proof.Machine

/-! ### The invariant R31 -/

/-- `buf[a..b)` are written. -/
abbrev Memory.writtenIn (m : Memory) (a b : Nat) : Prop := ∀ i < b, a ≤ i → (m.read? i).isSome = true

/-- The bytes `buf[a..a+length)` are `bs`. -/
abbrev Memory.holdsAt (m : Memory) (a : Nat) (bs : List Byte) : Prop :=
  ∀ k < bs.length, m.read? (a + k) = bs[k]?

/-- R31 in HUNT. -/
abbrev State.huntInv (s : State) : Prop := s.pos.toNat = 0 ∧ s.run.toNat = 0

/-- R31 in ACC. The run lies inside the payload written so far and its bytes are `0x1B` (R23; R86's
corner cases rest on it), and `buf[0..8)` is the start marker (R84). -/
abbrev State.accInv (s : State) : Prop :=
  s.hc.toNat = 0 ∧ Config.startLen + s.run.toNat ≤ s.pos.toNat ∧ s.pos.toNat < Config.payloadEnd ∧
    s.buf.writtenIn 0 s.pos.toNat ∧ s.buf.holdsAt 0 Config.startMarker ∧
    s.buf.holdsAt (s.pos.toNat - s.run.toNat) (List.replicate s.run.toNat Config.esc)

/-- R31 in TRL. -/
abbrev State.trlInv (s : State) : Prop :=
  s.hc.toNat = 0 ∧ Config.payloadEnd ≤ s.pos.toNat ∧ s.pos.toNat < Config.frameLen ∧
    s.buf.writtenIn 0 s.pos.toNat ∧ s.buf.holdsAt 0 Config.startMarker

/-- R31 in VAL and EMIT: the whole frame is written. -/
abbrev State.frameInv (s : State) : Prop :=
  s.hc.toNat = 0 ∧ s.pos.toNat = Config.frameLen ∧
    s.buf.writtenIn 0 Config.frameLen ∧ s.buf.holdsAt 0 Config.startMarker

/-- What R31 says in the state `st` stands in; the reserved codes are not reached (R66). -/
abbrev State.phaseInv (s : State) : Prop :=
  (s.st = .hunt → s.huntInv) ∧ (s.st = .acc → s.accInv) ∧ (s.st = .trl → s.trlInv) ∧
    (s.st = .val ∨ s.st = .emit → s.frameInv) ∧ s.st.isReserved = false

/-- The invariant between steps: R31, the legal codes of `diag_reason` (R140), and the canonical form
of the frame buffer. -/
abbrev State.inv (s : State) : Prop :=
  s.buf.wf ∧ s.phaseInv ∧ (s.ioError = true ↔ s.st = .failed) ∧ (s.mValid = true ↔ s.st = .emit) ∧
    (s.diagValid = true ↔ s.diagReason ≠ 0b00#2) ∧ s.diagReason ≠ 0b11#2

/-! ### Runs -/

/-- `k` edges from a state. -/
abbrev run (k : Nat) (s : State) : Answer := Host.Core.run Sys2Proof.core k s

/-- A run has ended when the block is in FAILED (R169). `observe` does not stop there: log entry 23. -/
abbrev State.ended (s : State) : Prop := s.st = .failed

/-! ### The observation of a run (R169) -/

/-- The output events (R169). -/
inductive OutEvent where
  /-- `MEAS(r)`, at each VALIDATE_PASS. -/
  | meas (r : Measurement)
  /-- `DIAG(reason)`, at each VALIDATE_FAIL. -/
  | diag (reason : Reason)
  /-- `IOERR`, at SRC_ERROR. -/
  | ioErr
deriving DecidableEq, Repr

/-- The operation the next step takes, if it takes one. -/
def State.nextOp (s : State) : Option Instr :=
  match s.ticks with
  | [] => none
  | t :: _ =>
    match fetch s t with
    | none => none
    | some w =>
      match select s w with
      | .next i => some i
      | .fault _ => none
      | .refused _ => none

/-- The output event of an operation that has led to the state `s'`. -/
def outputOf (i : Instr) (s' : State) : Option OutEvent :=
  match i with
  | .validatePass => some (.meas s'.mRec)
  | .validateFail => some (.diag s'.diagReason)
  | .srcError _ => some .ioErr
  | .huntEsc | .huntSoh | .huntComplete | .huntMismatch _ | .accEsc | .accCollapse | .accOther _
  | .trlByte _ | .emitAccept | .reset => none

/-- The output events of the next `k` edges, in step order. In FAILED nothing is put out; a reset out of it
begins a new instance (R161), and its events follow in the same list: whether they belong to the same
observation R169 does not say. DESIGN CHOICE, log entry 23. -/
def observe : Nat → State → List OutEvent
  | 0, _ => []
  | k + 1, s =>
    match step s with
    | .next s' => (s.nextOp.bind fun i => outputOf i s').toList ++ observe k s'
    | .fault _ => []
    | .refused _ => []

/-! ### Streams of bytes -/

/-- An edge at which the Byte Source offers and nothing else happens. -/
def Tick.offering (ts : BitVec Config.tsW) : Tick := ⟨false, true, false, false, ts⟩

/-- The Byte Source about to deliver `bs`, one byte at each of the next edges, ahead of whatever the
environment was going to do. -/
def State.feeding (s : State) (bs : List Byte) : State :=
  { s with
    stream := bs.map byteResult ++ s.stream
    ticks := bs.map (fun _ => Tick.offering s.tsIn) ++ s.ticks }

/-- De-stuffing by maximal runs (R68): `n` is the length of the run of `0x1B` read so far; a run of `L`
writes `4·⌊L/8⌋ + L mod 8` bytes `0x1B`, every other byte is copied. -/
def destuff (n : Nat) : List Byte → List Byte
  | [] => List.replicate (4 * (n / 8) + n % 8) Config.esc
  | b :: bs =>
    if b = Config.esc then destuff (n + 1) bs
    else List.replicate (4 * (n / 8) + n % 8) Config.esc ++ b :: destuff 0 bs

end Sys2Proof.Machine
end

