-- ==== Sys2Proof/Certificates/Slice0/Obligations.lean ====
section
/-!
DEFINITION. The statements for the provers. Each docstring names the rule of spec/ it formalises; where
a statement rests on the model's own choice it says so and names the log entry. A statement about edges rests
on log entry 5: the coming inputs of the ports are data of the state.
-/

open Sys2Proof Sys2Proof.Machine

/-! ### Decode and encode -/

/-- Decode and encode agree (R62, R65): the word of every well-formed operation decodes to it, under every
value of `hc`, `run` and `FrameValid` at which its guard holds. -/
def Obligations.DecodeOfEncodeIsTheOperation : Prop :=
  ∀ (g : Guards) (i : Instr), i.wellFormed = true → i.guardHolds g = true → decode g (encode i) = .ok i

/-- R65: "Exactly one operation applies to each enabled event". An enabled event is one of R63's table,
with `data` = `0x00` where it is no BYTE (R62). -/
def Obligations.EnabledEventHasExactlyOneOperation : Prop :=
  ∀ (g : Guards) (ev : EventWord),
    (evKind ev = .byte ∧ (evState ev).reads = true) ∨
      (evData ev = 0#8 ∧
        ((evKind ev = .error ∧ (evState ev).reads = true) ∨
          (evKind ev = .internal ∧ evState ev = .val) ∨ (evKind ev = .accept ∧ evState ev = .emit))) →
    ∃ i : Instr, decodeEvent g ev = .ok i ∧
      (i.wellFormed = true ∧ i.guardHolds g = true ∧ encode i = .ev13 ev) ∧
      ∀ j : Instr, j.wellFormed = true → j.guardHolds g = true → encode j = .ev13 ev → j = i

/-- R63, R66: an event that is not enabled is rejected by name; a reserved state code as such. -/
def Obligations.EventNotEnabledIsRejected : Prop :=
  ∀ (g : Guards) (ev : EventWord),
    ¬((evKind ev = .byte ∨ evKind ev = .error) ∧ (evState ev).reads = true) →
    ¬(evKind ev = .internal ∧ evState ev = .val) → ¬(evKind ev = .accept ∧ evState ev = .emit) →
    decodeEvent g ev = .error (if (evState ev).isReserved then .reservedState else .notEnabled)

/-- Words written out from the encodings of R81 to R88, R105, R106, R134, R141 and R160 decode to their
operations. -/
def Obligations.SpelledWordsDecode : Prop :=
  decode ⟨2#3, 0#3, false⟩ (.ev13 0b000_00_00011011#13) = .ok .huntEsc ∧
    decode ⟨5#3, 0#3, false⟩ (.ev13 0b000_00_00000001#13) = .ok .huntSoh ∧
    decode ⟨7#3, 0#3, false⟩ (.ev13 0b000_00_00000001#13) = .ok .huntComplete ∧
    decode ⟨4#3, 0#3, false⟩ (.ev13 0b000_00_00011011#13) = .ok (.huntMismatch 0x1B#8) ∧
    decode ⟨0#3, 6#3, false⟩ (.ev13 0b001_00_00011011#13) = .ok .accEsc ∧
    decode ⟨0#3, 7#3, false⟩ (.ev13 0b001_00_00011011#13) = .ok .accCollapse ∧
    decode ⟨0#3, 7#3, false⟩ (.ev13 0b001_00_00000001#13) = .ok (.accOther 0x01#8) ∧
    decode ⟨0#3, 3#3, false⟩ (.ev13 0b010_00_00011011#13) = .ok (.trlByte 0x1B#8) ∧
    decode ⟨0#3, 0#3, true⟩ (.ev13 0b011_10_00000000#13) = .ok .validatePass ∧
    decode ⟨0#3, 0#3, false⟩ (.ev13 0b011_10_00000000#13) = .ok .validateFail ∧
    decode ⟨0#3, 0#3, false⟩ (.ev13 0b100_11_00000000#13) = .ok .emitAccept ∧
    decode ⟨0#3, 0#3, false⟩ (.ev13 0b001_01_00000000#13) = .ok (.srcError .acc) ∧
    decode ⟨0#3, 0#3, false⟩ (.rst1 1#1) = .ok .reset

/-! ### What each operation does -/

/-- R81, HUNT_ESC: its word, and `hc <- hc + 1` for every counter 0 to 3; nothing else changes, `s_ready`
stays 1, and the step drives no diagnostic. -/
def Obligations.HuntEscCountsTheMarkerByte : Prop :=
  encode .huntEsc = .ev13 0x001B#13 ∧
    ∀ s : State, s.st = .hunt → s.hc.toNat < 4 →
      ∃ t : State, t = { s with hc := s.hc + 1, diagValid := false, diagReason := 0#2 } ∧
        exec .huntEsc s = .next t ∧ t.hc.toNat = s.hc.toNat + 1 ∧ ∀ k : Tick, k.rst = false → t.sReady k = true

/-- R82, HUNT_SOH: its word, and `hc <- hc + 1` for every counter 4 to 6; nothing else changes. -/
def Obligations.HuntSohCountsTheMarkerByte : Prop :=
  encode .huntSoh = .ev13 0x0001#13 ∧
    ∀ s : State, s.st = .hunt → 4 ≤ s.hc.toNat → s.hc.toNat < 7 →
      exec .huntSoh s = .next { s with hc := s.hc + 1, diagValid := false, diagReason := 0#2 } ∧
        (s.hc + 1).toNat = s.hc.toNat + 1

/-- R83, HUNT_MISMATCH: its word, and `hc <- 0` on every byte that is not the one the counter expects;
nothing else changes. -/
def Obligations.HuntMismatchClearsTheCounter : Prop :=
  (∀ b : Byte, encode (.huntMismatch b) = .ev13 (0b00000#5 ++ b)) ∧
    ∀ (s : State) (b : Byte), s.st = .hunt → b ≠ (if s.hc.toNat < 4 then 0x1B#8 else 0x01#8) →
      exec (.huntMismatch b) s = .next { s with hc := 0#3, diagValid := false, diagReason := 0#2 }

/-- R84, HUNT_COMPLETE: its word; `buf[0..8)` becomes the start marker and no other byte changes, `pos`
is 8, `run` and `hc` are 0, `st` is ACC, and nothing else changes. -/
def Obligations.HuntCompleteCapturesTheMarker : Prop :=
  encode .huntComplete = .ev13 0x0001#13 ∧
    ∀ s : State, s.st = .hunt → s.hc.toNat = 7 →
      ∃ m : Memory,
        exec .huntComplete s =
          .next { s with buf := m, pos := 8#9, run := 0#3, hc := 0#3, st := .acc, diagValid := false, diagReason := 0#2 } ∧
        m.holdsAt 0 [0x1B#8, 0x1B#8, 0x1B#8, 0x1B#8, 0x01#8, 0x01#8, 0x01#8, 0x01#8] ∧
        ∀ a, 8 ≤ a → m.read? a = s.buf.read? a

/-- R85, ACC_ESC: its word; `buf[pos]` becomes `0x1B` and no other byte changes, `pos` and `run` go up by
one, `st` is TRL if the new `pos` is 396, and nothing else changes. -/
def Obligations.AccEscStoresAndCounts : Prop :=
  encode .accEsc = .ev13 0x041B#13 ∧
    ∀ s : State, s.st = .acc → s.pos.toNat < 404 → s.run.toNat < 7 →
      ∃ m : Memory,
        exec .accEsc s =
          .next { s with
            buf := m
            pos := s.pos + 1
            run := s.run + 1
            st := if s.pos.toNat + 1 = 396 then .trl else .acc
            diagValid := false
            diagReason := 0#2 } ∧
        (s.pos + 1).toNat = s.pos.toNat + 1 ∧ (s.run + 1).toNat = s.run.toNat + 1 ∧
        ∀ a, m.read? a = if a = s.pos.toNat then some 0x1B#8 else s.buf.read? a

/-- R86, ACC_COLLAPSE: its word; `buf[pos]` becomes `0x1B` and no other byte changes, `pos` goes back by
3 net, `run` is 0, `st` stays ACC, and nothing else changes. Under the invariant a run of 7 gives `pos` ≥ 15
before, and `pos` stays inside the payload. -/
def Obligations.AccCollapseRewindsByFour : Prop :=
  encode .accCollapse = .ev13 0x041B#13 ∧
    ∀ s : State, s.st = .acc → s.pos.toNat < 404 → s.run.toNat = 7 →
      ∃ m : Memory,
        exec .accCollapse s =
          .next { s with buf := m, pos := s.pos + 1 - 4, run := 0#3, diagValid := false, diagReason := 0#2 } ∧
        (3 ≤ s.pos.toNat → (s.pos + 1 - 4).toNat = s.pos.toNat - 3) ∧
        (s.inv → 15 ≤ s.pos.toNat ∧ 12 ≤ (s.pos + 1 - 4).toNat ∧ (s.pos + 1 - 4).toNat < 396) ∧
        ∀ a, m.read? a = if a = s.pos.toNat then some 0x1B#8 else s.buf.read? a

/-- R87, ACC_OTHER: its word; for every byte `b` but `0x1B`, `buf[pos]` becomes `b` and no other byte
changes, `pos` goes up by one, `run` is 0, `st` is TRL if the new `pos` is 396, and nothing else changes. -/
def Obligations.AccOtherStoresAndEndsTheRun : Prop :=
  (∀ b : Byte, encode (.accOther b) = .ev13 (0b00100#5 ++ b)) ∧
    ∀ (s : State) (b : Byte), s.st = .acc → s.pos.toNat < 404 → b ≠ 0x1B#8 →
      ∃ m : Memory,
        exec (.accOther b) s =
          .next { s with
            buf := m
            pos := s.pos + 1
            run := 0#3
            st := if s.pos.toNat + 1 = 396 then .trl else .acc
            diagValid := false
            diagReason := 0#2 } ∧
        (s.pos + 1).toNat = s.pos.toNat + 1 ∧
        ∀ a, m.read? a = if a = s.pos.toNat then some b else s.buf.read? a

/-- R88, TRL_BYTE: its word; for every byte `b`, `buf[pos]` becomes `b` and no other byte changes, `pos`
goes up by one, `st` is VAL if the new `pos` is 404, which ends `s_ready`, and nothing else changes, `run`
included. -/
def Obligations.TrlByteStoresRaw : Prop :=
  (∀ b : Byte, encode (.trlByte b) = .ev13 (0b01000#5 ++ b)) ∧
    ∀ (s : State) (b : Byte), s.st = .trl → s.pos.toNat < 404 →
      ∃ m : Memory,
        exec (.trlByte b) s =
          .next { s with
            buf := m
            pos := s.pos + 1
            st := if s.pos.toNat + 1 = 404 then .val else .trl
            diagValid := false
            diagReason := 0#2 } ∧
        (s.pos + 1).toNat = s.pos.toNat + 1 ∧
        (∀ (t : State) (k : Tick), exec (.trlByte b) s = .next t → t.st = .val → t.sReady k = false) ∧
        ∀ a, m.read? a = if a = s.pos.toNat then some b else s.buf.read? a

/-- R105, VALIDATE_PASS: its word; in VAL with a valid frame, `m_rec` becomes `Decode(buf, ts_in)`, which is
total there, `m_valid` is 1, `st` is EMIT, and nothing else changes. -/
def Obligations.ValidatePassLatchesTheMeasurement : Prop :=
  encode .validatePass = .ev13 0x0E00#13 ∧
    ∀ s : State, s.st = .val → frameValid s.buf = .ok true →
      ∃ r : Measurement, decodeFrame s.buf s.tsIn = .ok r ∧
        exec .validatePass s =
          .next { s with mRec := r, mValid := true, st := .emit, diagValid := false, diagReason := 0#2 }

/-- R106, VALIDATE_FAIL: its word; in VAL with an invalid frame, the reason is driven for the step (`01`
when the end marker is wrong, `10` when it is right), the hunt restarts with hc = run = pos = 0, and nothing
else changes. -/
def Obligations.ValidateFailRestartsTheHunt : Prop :=
  encode .validateFail = .ev13 0x0E00#13 ∧
    ∀ s : State, s.st = .val → frameValid s.buf = .ok false →
      ∃ em : Bool, emOk s.buf = .ok em ∧
        exec .validateFail s =
          .next { s with
            st := .hunt
            hc := 0#3
            run := 0#3
            pos := 0#9
            diagValid := true
            diagReason := if em then 0b10#2 else 0b01#2 }

/-- R134, EMIT_ACCEPT: its word; in EMIT, `m_valid` is 0, the hunt restarts with hc = run = pos = 0, and nothing
else changes. That `m_rec` keeps its value is the model's choice (DESIGN CHOICE, log entry 18): R134 writes it,
but I6 leaves the record any value once `m_valid` is 0 and lets no claim depend on it. -/
def Obligations.EmitAcceptReturnsToTheHunt : Prop :=
  encode .emitAccept = .ev13 0x1300#13 ∧
    ∀ s : State, s.st = .emit →
      exec .emitAccept s =
        .next { s with mValid := false, st := .hunt, hc := 0#3, run := 0#3, pos := 0#9, diagValid := false, diagReason := 0#2 }

/-- R141, SRC_ERROR: its word in each of HUNT, ACC and TRL; there `io_error` is 1 and `st` is FAILED,
`s_ready` is 0 from then on, and nothing else changes: hc, run, pos, buf and m_rec keep their values. -/
def Obligations.SrcErrorStopsTheBlock : Prop :=
  encode (.srcError .hunt) = .ev13 0b000_01_00000000#13 ∧ encode (.srcError .acc) = .ev13 0b001_01_00000000#13 ∧
    encode (.srcError .trl) = .ev13 0b010_01_00000000#13 ∧
    ∀ s : State, s.st = .hunt ∨ s.st = .acc ∨ s.st = .trl →
      ∃ t : State, t = { s with ioError := true, st := .failed, diagValid := false, diagReason := 0#2 } ∧
        exec (.srcError s.st) s = .next t ∧ ∀ k : Tick, t.sReady k = false

/-- R160, RESET: in every state, the reserved ones too, `st`, `hc`, `run`, `pos`, `m_valid`, `io_error` and the
diagnostic outputs take their reset values and every byte of `buf` is unwritten. Of `m_rec` nothing is said;
the ports' side is left alone (log entry 5). -/
def Obligations.ResetTakesEveryStateToTheHunt : Prop :=
  encode .reset = .rst1 1#1 ∧
    ∀ s : State, ∃ t : State, exec .reset s = .next t ∧
      t.st = .hunt ∧ t.hc = 0#3 ∧ t.run = 0#3 ∧ t.pos = 0#9 ∧ (∀ a, t.buf.read? a = none) ∧
      t.mValid = false ∧ t.ioError = false ∧ t.diagValid = false ∧ t.diagReason = 0#2 ∧
      t.stream = s.stream ∧ t.ticks = s.ticks ∧ t.tsIn = s.tsIn

/-! ### Frames -/

/-- R85 to R88: an operation that stores a byte stores it at `buf[pos]`, `pos` being the write index before
it, and every other index reads as before. -/
def Obligations.StoringOperationsWriteOneByte : Prop :=
  ∀ (s t : State) (i : Instr) (b : Byte),
    ((i = .accEsc ∨ i = .accCollapse) ∧ b = 0x1B#8) ∨ i = .accOther b ∨ i = .trlByte b →
    exec i s = .next t → ∀ a, t.buf.read? a = if a = s.pos.toNat then some b else s.buf.read? a

/-- R20, R47: HUNT_ESC, HUNT_SOH, HUNT_MISMATCH, VALIDATE_PASS, VALIDATE_FAIL, EMIT_ACCEPT and SRC_ERROR store
nothing: every index of the frame buffer reads as before. -/
def Obligations.OtherOperationsLeaveTheFrame : Prop :=
  ∀ (s t : State) (i : Instr),
    i = .huntEsc ∨ i = .huntSoh ∨ (∃ b, i = .huntMismatch b) ∨ i = .validatePass ∨ i = .validateFail ∨
      i = .emitAccept ∨ (∃ q, i = .srcError q) →
    exec i s = .next t → ∀ a, t.buf.read? a = s.buf.read? a

/-- R20, R26: `m_rec` is written by VALIDATE_PASS alone, but for RESET, which leaves it unspecified (R160). The
case of EMIT_ACCEPT is the model's choice (DESIGN CHOICE, log entry 18): I6 leaves the record any value after
it and lets no claim depend on it. -/
def Obligations.RecordChangesOnlyByValidatePass : Prop :=
  ∀ (s t : State) (i : Instr), exec i s = .next t → i ≠ .validatePass → i ≠ .reset → t.mRec = s.mRec

/-- R20: `m_valid` is written by VALIDATE_PASS (to 1), EMIT_ACCEPT and RESET (to 0) alone, `io_error` by
SRC_ERROR (to 1) and RESET (to 0) alone. -/
def Obligations.FlagsChangeOnlyByTheirOperations : Prop :=
  ∀ (s t : State) (i : Instr), exec i s = .next t →
    (t.mValid ≠ s.mValid → (i = .validatePass ∧ t.mValid = true) ∨ ((i = .emitAccept ∨ i = .reset) ∧ t.mValid = false)) ∧
    (t.ioError ≠ s.ioError → ((∃ q, i = .srcError q) ∧ t.ioError = true) ∨ (i = .reset ∧ t.ioError = false))

/-- R51, R53: no operation touches the Byte Source's stream, the coming edges or the `ts_in` port, which the
model holds in its state (log entry 5). -/
def Obligations.OperationsLeaveTheEnvironment : Prop :=
  ∀ (s t : State) (i : Instr), exec i s = .next t → t.stream = s.stream ∧ t.ticks = s.ticks ∧ t.tsIn = s.tsIn

/-- R20, R22 to R24: which operations leave the counters alone. `hc` is kept by the ACC and TRL operations,
VALIDATE_PASS and SRC_ERROR; `run` and `pos` by HUNT_ESC, HUNT_SOH, HUNT_MISMATCH, VALIDATE_PASS and SRC_ERROR, and
`run` by TRL_BYTE too. That SRC_ERROR keeps `hc` is R141's, where R22 has a sentence against it: the model's
reading (DEDUCED, log entry 8). -/
def Obligations.CountersKeptByOtherOperations : Prop :=
  ∀ (s t : State) (i : Instr) (b : Byte) (q : St), exec i s = .next t →
    (i = .accEsc ∨ i = .accCollapse ∨ i = .accOther b ∨ i = .trlByte b ∨ i = .validatePass ∨ i = .srcError q →
      t.hc = s.hc) ∧
    (i = .huntEsc ∨ i = .huntSoh ∨ i = .huntMismatch b ∨ i = .validatePass ∨ i = .srcError q →
      t.run = s.run ∧ t.pos = s.pos) ∧
    (i = .trlByte b → t.run = s.run)

/-! ### The step -/

/-- A step runs the decoded operation (R10, R65, R170): when the ports of the next edge give a step word that
decodes to `i` under the guards of the state, the step is `exec i` on the state whose edge is over, whose
`ts_in` is the edge's and whose stream has lost the result transferred, if one was. -/
def Obligations.StepRunsTheDecodedOperation : Prop :=
  ∀ (s : State) (k : Tick) (rest : List Tick) (w : StepWord) (g : Guards) (i : Instr),
    s.ticks = k :: rest → fetch s k = some w → guardsAt s w = .ok g → decode g w = .ok i →
    step s =
      exec i { s with ticks := rest, tsIn := k.tsIn, stream := if s.transfers k then s.stream.tail else s.stream }

/-- R170: what a rising edge selects, in the mapping's order, and the outputs it gives. -/
def Obligations.EdgeFollowsTheCycleMapping : Prop :=
  ∀ (s : State) (k : Tick),
    fetch s k =
      (if k.rst = true then some (.rst1 1#1)
      else if (s.st = .hunt ∨ s.st = .acc ∨ s.st = .trl) ∧ s.sValid k = true then
        some (.ev13 (if s.sErr = true then mkEvent s.st .error 0#8 else mkEvent s.st .byte s.sData))
      else if s.st = .val ∧ k.valDone = true then some (.ev13 (mkEvent .val .internal 0#8))
      else if s.st = .emit ∧ k.mReady = true then some (.ev13 (mkEvent .emit .accept 0#8))
      else none) ∧
    s.sReady k = (decide (s.st = .hunt ∨ s.st = .acc ∨ s.st = .trl) && !k.rst) ∧
    s.mValidPort k = (s.mValid && !k.rst) ∧ s.ioErrorPort = decide (s.st = .failed)

/-- R170, R152: an edge that is no step holds all state of the block; the diagnostic pulse is over (R28). -/
def Obligations.IdleEdgeHoldsAllState : Prop :=
  ∀ (s : State) (k : Tick) (rest : List Tick), s.ticks = k :: rest → fetch s k = none → s.st.isReserved = false →
    step s = .next { s with ticks := rest, tsIn := k.tsIn, diagValid := false, diagReason := 0#2 }

/-- R160, R145: RESET is the `rst` input at 1 and no event word; an edge with it is the RESET step whatever
the state and the other ports are. The result offered is not taken, the measurement held is not accepted, and
of `m_rec` nothing is said. -/
def Obligations.ResetOverridesEveryEvent : Prop :=
  encode .reset = .rst1 1#1 ∧
  ∀ (s : State) (k : Tick) (rest : List Tick), s.ticks = k :: rest → k.rst = true →
    fetch s k = some (encode .reset) ∧ s.sReady k = false ∧ s.mValidPort k = false ∧
    ∃ t : State, step s = .next t ∧ t.st = .hunt ∧ t.hc = 0#3 ∧ t.run = 0#3 ∧ t.pos = 0#9 ∧
      (∀ a, t.buf.read? a = none) ∧ t.mValid = false ∧ t.ioError = false ∧ t.diagValid = false ∧
      t.diagReason = 0b00#2 ∧ t.stream = s.stream ∧ t.ticks = rest

/-- R161: nothing of a frame seen before a reset survives it: two states that differ in the registers and the
buffer alone are the same after it. That this takes in `m_rec`, which R160 leaves unspecified, is the model's
choice (DESIGN CHOICE, log entry 4): its free value is drawn by a counter, on which the two states agree. -/
def Obligations.NothingSurvivesAReset : Prop :=
  ∀ s u : State, s.tsIn = u.tsIn → s.stream = u.stream → s.ticks = u.ticks → s.freeCount = u.freeCount →
    ∃ t : State, exec .reset s = .next t ∧ exec .reset u = .next t

/-- R53, R164: a step consumes the head of the stream exactly when it is transferred, and nothing else of it. -/
def Obligations.StreamIsConsumedInOrder : Prop :=
  ∀ (s s' : State) (k : Tick) (rest : List Tick), s.ticks = k :: rest → step s = .next s' →
    s'.ticks = rest ∧
    ((s.transfers k = true ∧ ∃ iw, s.stream = iw :: s'.stream) ∨ (s.transfers k = false ∧ s'.stream = s.stream))

/-- R133: from EMIT, over any number of edges without a reset and without `m_ready`, `m_valid` and the
measurement stand as they are, `s_ready` is 0 and the input stream is held, not dropped. -/
def Obligations.MeasurementIsHeldUntilAccepted : Prop :=
  ∀ (n : Nat) (s s' : State), s.st = .emit → (∀ k ∈ s.ticks, k.rst = false ∧ k.mReady = false) →
    run n s = .next s' →
    s'.st = .emit ∧ s'.mValid = s.mValid ∧ s'.mRec = s.mRec ∧ s'.buf = s.buf ∧ s'.stream = s.stream ∧
      ∀ k : Tick, s'.sReady k = false

/-- R142: from FAILED, over any number of edges without a reset, no edge selects an event, the block stays in
FAILED, takes nothing from the Byte Source, and keeps `io_error` and `m_valid` as they are: under the invariant,
at 1 and 0. -/
def Obligations.FailedIsLeftOnlyByReset : Prop :=
  ∀ (n : Nat) (s s' : State), s.st = .failed → (∀ k ∈ s.ticks, k.rst = false) → run n s = .next s' →
    s'.st = .failed ∧ s'.ioError = s.ioError ∧ s'.mValid = s.mValid ∧ s'.stream = s.stream ∧
      (s.inv → s'.ioError = true ∧ s'.mValid = false) ∧
      ∀ k : Tick, s'.sReady k = false ∧ (k.rst = false → fetch s' k = none)

/-- R140, R141: the block comes to FAILED only by taking a failure of the Byte Source. -/
def Obligations.OnlyASourceFailureIsFatal : Prop :=
  ∀ s s' : State, step s = .next s' → s.st ≠ .failed → s'.st = .failed →
    ∃ k rest iw more, s.ticks = k :: rest ∧ s.stream = iw :: more ∧ s.transfers k = true ∧ iwIsError iw = true ∧
      s'.ioError = true

/-- R144: a FrameCorruption changes neither `m_valid` nor `io_error` nor `m_rec`; `diag_valid` shows it, with one
of the two reasons. -/
def Obligations.FrameCorruptionIsSilent : Prop :=
  ∀ s t : State, exec .validateFail s = .next t →
    t.mValid = s.mValid ∧ t.ioError = s.ioError ∧ t.mRec = s.mRec ∧ t.diagValid = true ∧
      (t.diagReason = 0b01#2 ∨ t.diagReason = 0b10#2)

/-- R28: after an edge, `diag_valid` is 1 exactly if the edge was a VALIDATE_FAIL; the reason is `01` or `10`
with it and `00` without. -/
def Obligations.DiagnosticPulseMarksValidateFail : Prop :=
  ∀ s s' : State, s.ticks ≠ [] → step s = .next s' →
    (s'.diagValid = true ↔ s.nextOp = some .validateFail) ∧
    (s'.diagValid = true → s'.diagReason = 0b01#2 ∨ s'.diagReason = 0b10#2) ∧
    (s'.diagValid = false → s'.diagReason = 0b00#2)

/-! ### Stops -/

/-- R66: in a reserved state every operation but RESET is the fault `ReservedState`. That every edge without a
reset is that fault too, though none of them selects a step there, is the model's choice (DESIGN CHOICE, log
entry 13). -/
def Obligations.ReservedStateIsAFault : Prop :=
  ∀ s : State, s.st = .reserved6 ∨ s.st = .reserved7 →
    (∀ i : Instr, i ≠ .reset → exec i s = .fault .reservedState) ∧
    ∀ k rest, s.ticks = k :: rest → k.rst = false → step s = .fault .reservedState

/-- R63, R65: in a state that is not reserved, an operation that its state and guards do not select is
refused (I11; log entry 11). -/
def Obligations.OperationNotSelectedIsRefused : Prop :=
  ∀ (s : State) (i : Instr) (ev : EventWord) (g : Guards), encode i = .ev13 ev → s.st.isReserved = false →
    guardsAt s (.ev13 ev) = .ok g →
    ¬(s.st = evState ev ∧ i.wellFormed = true ∧ i.guardHolds g = true) → exec i s = .refused .notEnabled

/-- A byte stored at an index from 404 on, which does not exist (20_memory.md section 1), is a fault: the model's
choice, log entry 12, in a state that no run reaches. -/
def Obligations.StoreOutsideTheBufferFaults : Prop :=
  ∀ (s : State) (b : Byte), 404 ≤ s.pos.toNat →
    (s.st = .acc → s.run.toNat < 7 → exec .accEsc s = .fault (.noSuchIndex s.pos.toNat)) ∧
    (s.st = .acc → s.run.toNat = 7 → exec .accCollapse s = .fault (.noSuchIndex s.pos.toNat)) ∧
    (s.st = .acc → b ≠ 0x1B#8 → exec (.accOther b) s = .fault (.noSuchIndex s.pos.toNat)) ∧
    (s.st = .trl → exec (.trlByte b) s = .fault (.noSuchIndex s.pos.toNat))

/-- R25, R46: a validation that would read an unwritten byte of the checks is the fault `UnwrittenRead` of an
unwritten byte, for both operations. -/
def Obligations.ValidationOfUnwrittenBytesFaults : Prop :=
  ∀ (s : State) (a : Nat), s.st = .val →
    (59 ≤ a ∧ a < 365) ∨ (366 ≤ a ∧ a < 368) ∨ (396 ≤ a ∧ a < 401) → s.buf.read? a = none →
    ∃ c, s.buf.read? c = none ∧ exec .validatePass s = .fault (.unwrittenRead c) ∧
      exec .validateFail s = .fault (.unwrittenRead c)

/-! ### The validator -/

/-- R102: `EM_OK` of five written bytes. -/
def Obligations.EndMarkerCheckComparesFiveBytes : Prop :=
  ∀ (m : Memory) (b₀ b₁ b₂ b₃ b₄ : Byte),
    m.read? 396 = some b₀ → m.read? 397 = some b₁ → m.read? 398 = some b₂ → m.read? 399 = some b₃ →
    m.read? 400 = some b₄ →
    emOk m = .ok (decide (b₀ = 0x1B#8 ∧ b₁ = 0x1B#8 ∧ b₂ = 0x1B#8 ∧ b₃ = 0x1B#8 ∧ b₄ = 0x1A#8))

/-- R103: `CRC_OK` compares `CRC16_FN` of the 306 bytes [59, 365) with `buf[366] * 256 + buf[367]`, for whatever
`CRC16_FN` is. -/
def Obligations.ChecksumCheckComparesBigEndian : Prop :=
  ∀ (m : Memory) (span : List Byte) (hi lo : Byte), span.length = 306 → m.holdsAt 59 span →
    m.read? 366 = some hi → m.read? 367 = some lo →
    crcOk m = .ok (decide ((Config.crc16Fn span).toNat = hi.toNat * 256 + lo.toNat))

/-- R104: `FrameValid` is `EM_OK` and `CRC_OK`, in either order, and a function of the 313 bytes [59, 365),
[366, 368) and [396, 401). -/
def Obligations.FrameValidReadsOnlyItsBytes : Prop :=
  (∀ (m : Memory) (em crc : Bool), emOk m = .ok em → crcOk m = .ok crc →
    frameValid m = .ok (em && crc) ∧ frameValid m = .ok (crc && em)) ∧
  ∀ m m' : Memory,
    (∀ a, (59 ≤ a ∧ a < 365) ∨ (366 ≤ a ∧ a < 368) ∨ (396 ≤ a ∧ a < 401) → m.read? a = m'.read? a) →
    frameValid m = frameValid m'

/-- R107: when both checks fail, and whenever the end marker is wrong, the reason is END_MARKER_MISMATCH. -/
def Obligations.EndMarkerReasonWhenBothFail : Prop :=
  ∀ (s : State) (crc : Bool), s.st = .val → emOk s.buf = .ok false → crcOk s.buf = .ok crc →
    ∃ t : State, exec .validateFail s = .next t ∧ t.diagValid = true ∧ t.diagReason = 0b01#2

/-! ### The field demultiplexer -/

/-- R120: the field table; R48: every field lies inside the CRC span [59, 365), and no two overlap (R135). -/
def Obligations.FieldTableIsTheSpecs : Prop :=
  FrameField.all.map FrameField.row =
    [⟨104, 4, false, 0, .count⟩, ⟨168, 8, true, -7, .kWh⟩, ⟨192, 8, true, -2, .watt⟩, ⟨216, 8, true, -2, .watt⟩,
      ⟨240, 8, true, -2, .watt⟩, ⟨264, 8, true, -2, .watt⟩, ⟨288, 2, false, -1, .volt⟩, ⟨306, 2, false, -1, .volt⟩,
      ⟨324, 2, false, -1, .volt⟩] ∧
  ∀ f g : FrameField, 59 ≤ f.row.offset ∧ f.row.offset + f.row.width ≤ 365 ∧
    (f ≠ g → f.row.offset + f.row.width ≤ g.row.offset ∨ g.row.offset + g.row.width ≤ f.row.offset)

/-- R9: `BEu` is positional with the most significant byte first and below `2^(8n)`; `BEs` is `BEu` less `2^(8n)`
exactly when the first byte is `0x80` or more, and lies in its two's-complement range. -/
def Obligations.BigEndianIntegersAreInRange : Prop :=
  ∀ (b : Byte) (bs : List Byte),
    beU (b :: bs) = b.toNat * 256 ^ bs.length + beU bs ∧ beU (b :: bs) < 2 ^ (8 * (bs.length + 1)) ∧
    beS (b :: bs) = (beU (b :: bs) : Int) - (if 0x80 ≤ b.toNat then 2 ^ (8 * (bs.length + 1)) else 0) ∧
    -2 ^ (8 * (bs.length + 1) - 1) ≤ beS (b :: bs) ∧ beS (b :: bs) < 2 ^ (8 * (bs.length + 1) - 1)

/-- R70, R121 to R130, R132: whatever `Decode` answers, each port holds the big-endian integer of the field's bytes,
signed as the table says, at its own width, and the timestamp is the one given. -/
def Obligations.DecodedPortsHoldTheFieldIntegers : Prop :=
  ∀ (m : Memory) (ts : BitVec Config.tsW) (r : Measurement), decodeFrame m ts = .ok r →
    r.timestamp = ts ∧
    ∀ f : FrameField, ∃ bs : List Byte, bs.length = f.row.width ∧ m.holdsAt f.row.offset bs ∧
      r.raw f = if f.row.signed then beS bs else (beU bs : Int)

/-- R121: `Decode` is total on every frame that the validator can judge. -/
def Obligations.DecodeIsTotalOnJudgedFrames : Prop :=
  ∀ (m : Memory) (ts : BitVec Config.tsW) (v : Bool), frameValid m = .ok v → ∃ r, decodeFrame m ts = .ok r

/-- R135: `Decode` is a function of the field bytes and `ts` only. R135 and R121 count 46 of them; the ranges of
R120 and R135, which are followed, are 50 bytes (DEDUCED, log entry 22). -/
def Obligations.DecodeReadsOnlyTheFieldBytes : Prop :=
  ∀ (m m' : Memory) (ts : BitVec Config.tsW),
    (∀ (f : FrameField) (k : Nat), k < f.row.width → m.read? (f.row.offset + k) = m'.read? (f.row.offset + k)) →
    decodeFrame m ts = decodeFrame m' ts

/-- R131 with the spec's worked examples (95_test_vectors.md W4 and section 2.6): the exact values of raw
integers. -/
def Obligations.ExactValuesOfTheWorkedExamples : Prop :=
  FrameField.power.exactValue 150000 = 1500 ∧ FrameField.power.exactValue (-100) = -1 ∧
    FrameField.energyCount.exactValue 123456789012 = 123456789012 / 10000000 ∧
    FrameField.voltageL1.exactValue 65535 = 65535 / 10 ∧ FrameField.secondsIndex.exactValue 4294967295 = 4294967295

/-! ### Invariants -/

/-- R34: the values the spec states for reset. Of `m_rec` nothing is said. -/
def Obligations.ResetStateHoldsTheStatedValues : Prop :=
  State.reset.st = .hunt ∧ State.reset.st.code = 0b000#3 ∧ State.reset.hc = 0#3 ∧ State.reset.run = 0#3 ∧
    State.reset.pos = 0#9 ∧ (∀ a, State.reset.buf.read? a = none) ∧ State.reset.mValid = false ∧
    State.reset.ioError = false ∧ State.reset.diagValid = false ∧ State.reset.diagReason = 0b00#2

/-- R31: the invariant holds after reset. -/
def Obligations.ResetStateMeetsTheInvariant : Prop := State.reset.inv

/-- R31: every step keeps the invariant, from every state that meets it. -/
def Obligations.EveryStepKeepsTheInvariant : Prop :=
  ∀ s s' : State, s.inv → step s = .next s' → s'.inv

/-- R46, R66: from every state that meets the invariant the step answers a next state: no unwritten byte is read,
no index outside the buffer is touched, no reserved state is met and no event is refused. -/
def Obligations.NoStepStopsUnderTheInvariant : Prop :=
  ∀ s : State, s.inv → ∃ s', step s = .next s'

/-- R63, R169: under the invariant the INTERNAL step of VAL is always enabled: at an edge without a reset at which
the validation has finished, the block takes VALIDATE_PASS or VALIDATE_FAIL and leaves VAL. -/
def Obligations.ValidationIsAlwaysEnabled : Prop :=
  ∀ (s : State) (k : Tick) (rest : List Tick), s.inv → s.st = .val → s.ticks = k :: rest → k.rst = false →
    k.valDone = true →
    ∃ s', step s = .next s' ∧
      ((s.nextOp = some .validatePass ∧ s'.st = .emit) ∨ (s.nextOp = some .validateFail ∧ s'.st = .hunt))

/-! ### Streams -/

/-- R84, R90: a start marker that arrives while hc = 0 is captured with its eighth byte. -/
def Obligations.MarkerInACleanHuntIsCaptured : Prop :=
  ∀ s : State, s.st = .hunt → s.hc = 0#3 →
    ∃ t : State, run 8 (s.feeding Config.startMarker) = .next t ∧ t.st = .acc ∧ t.hc = 0#3 ∧ t.pos = 8#9 ∧ t.run = 0#3 ∧
      t.buf.holdsAt 0 Config.startMarker ∧ t.stream = s.stream ∧ t.ticks = s.ticks

/-- R90: a start marker whose first byte arrives while hc ≠ 0 is missed: the eight bytes leave the hunt at hc = 0. -/
def Obligations.MarkerAfterAPartialMatchIsMissed : Prop :=
  ∀ s : State, s.st = .hunt → s.hc ≠ 0#3 →
    ∃ t : State, run 8 (s.feeding Config.startMarker) = .next t ∧ t.st = .hunt ∧ t.hc = 0#3 ∧ t.buf = s.buf ∧
      t.stream = s.stream

/-- R22, R90: in HUNT, `hc` = k means that the last k bytes consumed there are the first k of the start marker. -/
def Obligations.HuntCounterCountsMatchedBytes : Prop :=
  ∀ (s t : State) (bs : List Byte), s.st = .hunt → s.hc = 0#3 → run bs.length (s.feeding bs) = .next t →
    (∀ (n : Nat) (u : State), n ≤ bs.length → run n (s.feeding bs) = .next u → u.st = .hunt) →
    bs.drop (bs.length - t.hc.toNat) = Config.startMarker.take t.hc.toNat

/-- R67, R68, R85 to R87: from ACC with run = 0, feeding raw payload bytes writes their de-stuffing by maximal runs
(a run of L bytes `0x1B` writes 4·⌊L/8⌋ + L mod 8 of them) at the write index, as long as no beginning of them
reaches the end of the payload; the bytes before the write index stay. -/
def Obligations.AccumulationDestuffsByMaximalRuns : Prop :=
  ∀ (s : State) (raw : List Byte), s.st = .acc → s.run = 0#3 →
    (∀ n, n ≤ raw.length → s.pos.toNat + (destuff 0 (raw.take n)).length < 396) →
    ∃ t : State, run raw.length (s.feeding raw) = .next t ∧ t.st = .acc ∧
      t.pos.toNat = s.pos.toNat + (destuff 0 raw).length ∧ t.buf.holdsAt s.pos.toNat (destuff 0 raw) ∧
      (∀ a, a < s.pos.toNat → t.buf.read? a = s.buf.read? a) ∧ t.stream = s.stream ∧ t.ticks = s.ticks

/-- R88: the trailer is the next eight raw bytes, whatever they are: no de-stuffing, and `run` keeps its value. -/
def Obligations.TrailerIsStoredRaw : Prop :=
  ∀ (s : State) (raw : List Byte), s.st = .trl → s.pos = 396#9 → raw.length = 8 →
    ∃ t : State, run 8 (s.feeding raw) = .next t ∧ t.st = .val ∧ t.pos = 404#9 ∧ t.run = s.run ∧
      t.buf.holdsAt 396 raw ∧ (∀ a, a < 396 → t.buf.read? a = s.buf.read? a) ∧ t.stream = s.stream

/-- R89: the candidate frame as a function of the raw stream. From a clean hunt, the start marker, raw payload
bytes whose de-stuffing first reaches 388 bytes at their last one, and eight trailer bytes take the block to VAL
with the frame `START_MARKER ++ P ++ T` in the buffer, and consume exactly those bytes. -/
def Obligations.CandidateFrameOfTheRawStream : Prop :=
  ∀ (s : State) (raw trailer : List Byte), s.st = .hunt → s.hc = 0#3 → (destuff 0 raw).length = 388 →
    (∀ n, n < raw.length → (destuff 0 (raw.take n)).length < 388) → trailer.length = 8 →
    ∃ t : State,
      run (8 + raw.length + 8) (s.feeding (Config.startMarker ++ raw ++ trailer)) = .next t ∧ t.st = .val ∧
        t.pos = 404#9 ∧ t.buf.holdsAt 0 (Config.startMarker ++ destuff 0 raw ++ trailer) ∧ t.stream = s.stream ∧
        t.ticks = s.ticks

/-- R104, R105, R169: every measurement a run delivers is the decode of a frame that was valid when it was
delivered, with the `ts_in` of that edge. The observation goes on past FAILED and a reset out of it (DESIGN
CHOICE, log entry 23). -/
def Obligations.OnlyValidFramesAreDelivered : Prop :=
  ∀ (n : Nat) (s : State) (r : Measurement), OutEvent.meas r ∈ observe n s →
    ∃ (j : Nat) (u : State) (k : Tick) (rest : List Tick), j < n ∧ run j s = .next u ∧ u.ticks = k :: rest ∧
      u.st = .val ∧ frameValid u.buf = .ok true ∧ decodeFrame u.buf k.tsIn = .ok r
end

