-- ==== Sys2Proof/Laws/Decode.lean ====
section
/-!
SUPPORT. The fields of an event word, and the decode of an event word made of its fields.
-/

namespace Sys2Proof

@[simp] theorem St.ofCode_code (q : St) : St.ofCode q.code = q := by cases q <;> rfl

@[simp] theorem Kind.ofCode_code (k : Kind) : Kind.ofCode k.code = k := by cases k <;> rfl

@[simp] theorem evData_mkEvent (q : St) (k : Kind) (d : Byte) : evData (mkEvent q k d) = d := by
  unfold evData mkEvent
  exact BitVec.extractLsb'_append_eq_right

@[simp] theorem evKind_mkEvent (q : St) (k : Kind) (d : Byte) : evKind (mkEvent q k d) = k := by
  have : (mkEvent q k d).extractLsb' 8 2 = k.code := by
    show (q.code ++ k.code ++ d : BitVec (3 + 2 + 8)).extractLsb' 8 2 = k.code
    ext i hi
    simp only [BitVec.getElem_extractLsb', BitVec.getLsbD_append]
    simp [hi]
  rw [evKind, this, Kind.ofCode_code]

@[simp] theorem evState_mkEvent (q : St) (k : Kind) (d : Byte) : evState (mkEvent q k d) = q := by
  have : (mkEvent q k d).extractLsb' 10 3 = q.code := by
    show (q.code ++ k.code ++ d : BitVec (3 + 2 + 8)).extractLsb' 10 3 = q.code
    ext i hi
    simp only [BitVec.getElem_extractLsb', BitVec.getLsbD_append]
    simp [show ¬(10 + i < 8) by omega, show ¬(10 + i - 8 < 2) by omega, show 10 + i - 8 - 2 = i by omega, BitVec.getLsbD_eq_getElem hi]
  rw [evState, this, St.ofCode_code]

@[simp] theorem St.code_ofCode (c : BitVec 3) : (St.ofCode c).code = c := by
  revert c; decide

@[simp] theorem Kind.code_ofCode (c : BitVec 2) : (Kind.ofCode c).code = c := by
  revert c; decide

/-- An event word is made of its three fields (R62). -/
theorem mkEvent_fields (ev : EventWord) : mkEvent (evState ev) (evKind ev) (evData ev) = ev := by
  unfold mkEvent evState evKind evData
  rw [St.code_ofCode, Kind.code_ofCode]
  show (ev.extractLsb' 10 3 ++ ev.extractLsb' 8 2 ++ ev.extractLsb' 0 8 : BitVec (3 + 2 + 8)) = ev
  ext i hi
  simp only [BitVec.getElem_eq_testBit_toNat, BitVec.testBit_toNat, BitVec.getLsbD_append, BitVec.getLsbD_extractLsb']
  by_cases h8 : i < 8
  · simp [h8]
  · by_cases h2 : i - 8 < 2
    · simp [h8, h2, show 8 + (i - 8) = i by omega]
    · simp [h8, h2, show i - 8 - 2 < 3 by omega, show 10 + (i - 8 - 2) = i by omega]

end Sys2Proof
end

