-- ==== Sys2Proof/Laws/Memory.lean ====
section
/-!
SUPPORT. The laws of the frame buffer: read after write, the canonical form, and what the reads and
writes of byte strings answer.
-/

namespace Sys2Proof.Machine

/-! ### One byte -/

@[simp] theorem Memory.read?_nil (i : Nat) : Memory.read? [] i = none := rfl

theorem Memory.read?_cons (a : Nat) (v : Byte) (m : Memory) (i : Nat) :
    Memory.read? ((a, v) :: m) i = if a = i then some v else Memory.read? m i := rfl

/-- A read after a write to the same index gives the byte written. -/
@[simp] theorem Memory.read?_write_self (m : Memory) (i : Nat) (v : Byte) : (m.write i v).read? i = some v := by
  induction m with
  | nil => simp [Memory.write, Memory.read?]
  | cons c m ih =>
    obtain ⟨a, w⟩ := c
    unfold Memory.write
    split
    · simp [Memory.read?]
    · split
      · simp [Memory.read?]
      · rename_i h₁ h₂
        have : a ≠ i := fun h => h₂ h.symm
        simpa [Memory.read?, this] using ih

/-- A write leaves every other index alone. -/
theorem Memory.read?_write_of_ne {m : Memory} {i j : Nat} (v : Byte) (h : j ≠ i) :
    (m.write i v).read? j = m.read? j := by
  induction m with
  | nil => simp [Memory.write, Memory.read?, h.symm]
  | cons c m ih =>
    obtain ⟨a, w⟩ := c
    unfold Memory.write
    split
    · simp [Memory.read?, h.symm]
    · split
      · rename_i h₂
        subst h₂
        simp [Memory.read?, h.symm]
      · simp [Memory.read?, ih]

theorem Memory.read?_write (m : Memory) (i j : Nat) (v : Byte) :
    (m.write i v).read? j = if j = i then some v else m.read? j := by
  split
  · subst_vars; simp
  · exact Memory.read?_write_of_ne v ‹_›

/-- A byte once written stays written (R25). -/
theorem Memory.isSome_write {m : Memory} {i j : Nat} {v : Byte} (h : (m.read? j).isSome = true) :
    ((m.write i v).read? j).isSome = true := by
  rw [Memory.read?_write]; split <;> simp_all

/-! ### The canonical form -/

theorem Memory.wf_nil : Memory.wf [] := by simp [Memory.wf]

theorem Memory.mem_write {m : Memory} {i : Nat} {v : Byte} {c : Host.Cell} (h : c ∈ m.write i v) :
    c = (i, v) ∨ c ∈ m := by
  induction m with
  | nil => simpa [Memory.write] using h
  | cons d m ih =>
    obtain ⟨a, w⟩ := d
    unfold Memory.write at h
    split at h
    · simpa using h
    · split at h
      · rcases List.mem_cons.1 h with h | h <;> simp [h]
      · rcases List.mem_cons.1 h with h | h
        · simp [h]
        · rcases ih h with h | h <;> simp [h]

/-- A write keeps the canonical form. -/
theorem Memory.wf_write {m : Memory} {i : Nat} {v : Byte} (h : m.wf) (hi : i < Config.frameLen) :
    (m.write i v).wf := by
  refine ⟨?_, fun c hc => ?_⟩
  · have hs := h.1
    clear h
    induction m with
    | nil => simp [Memory.write]
    | cons d m ih =>
      obtain ⟨a, w⟩ := d
      obtain ⟨hlt, htail⟩ := List.pairwise_cons.1 hs
      unfold Memory.write
      split
      · rename_i hia
        refine List.pairwise_cons.2 ⟨fun c hc => ?_, List.pairwise_cons.2 ⟨hlt, htail⟩⟩
        rcases List.mem_cons.1 hc with rfl | hc
        · exact hia
        · exact Nat.lt_trans hia (hlt c hc)
      · split
        · rename_i _ hia
          subst hia
          exact List.pairwise_cons.2 ⟨hlt, htail⟩
        · refine List.pairwise_cons.2 ⟨fun c hc => ?_, ih htail⟩
          rcases Memory.mem_write hc with rfl | hc
          · show a < i
            omega
          · exact hlt c hc
  · rcases Memory.mem_write hc with rfl | hc
    · exact hi
    · exact h.2 c hc

/-- A `put` that answers has written one byte inside the buffer. -/
theorem Memory.put_eq_ok {m m' : Memory} {i : Nat} {v : Byte} :
    m.put i v = .ok m' ↔ i < Config.frameLen ∧ m' = m.write i v := by
  unfold Memory.put
  split <;> simp_all [eq_comm]

@[simp] theorem Memory.put_of_lt {m : Memory} {i : Nat} {v : Byte} (h : i < 404) :
    m.put i v = .ok (m.write i v) := Memory.put_eq_ok.2 ⟨h, rfl⟩

theorem Memory.put_of_ge {m : Memory} {i : Nat} {v : Byte} (h : 404 ≤ i) :
    m.put i v = .error (.noSuchIndex i) := by
  simp [Memory.put, Nat.not_lt.2 h]

/-- `put` keeps the canonical form. -/
theorem Memory.wf_put {m m' : Memory} {i : Nat} {v : Byte} (h : m.wf) (hp : m.put i v = .ok m') : m'.wf := by
  obtain ⟨hi, rfl⟩ := Memory.put_eq_ok.1 hp
  exact Memory.wf_write h hi

/-- What `putBytes` answers where the bytes fit: each in its place, every other index as before. -/
theorem Memory.putBytes_spec {m : Memory} {i : Nat} {vs : List Byte} (h : i + vs.length ≤ Config.frameLen) :
    ∃ m', m.putBytes i vs = .ok m' ∧ m'.holdsAt i vs ∧
      ∀ j, j < i ∨ i + vs.length ≤ j → m'.read? j = m.read? j := by
  induction vs generalizing m i with
  | nil => exact ⟨m, rfl, by intro k hk; simp at hk, fun _ _ => rfl⟩
  | cons v vs ih =>
    simp only [List.length_cons] at h
    obtain ⟨m', hm', hin, hout⟩ := ih (m := m.write i v) (i := i + 1) (by omega)
    refine ⟨m', ?_, fun k hk => ?_, fun j hj => ?_⟩
    · simp [Memory.putBytes, Memory.put_of_lt (show i < 404 by simp [Config.frameLen] at h; omega), hm']
    · cases k with
      | zero => rw [Nat.add_zero, hout i (Or.inl (Nat.lt_succ_self i))]; simp
      | succ k =>
        have := hin k (by simpa using hk)
        rw [show i + (k + 1) = i + 1 + k by omega, this]; simp
    · simp only [List.length_cons] at hj
      rw [hout j (by omega), Memory.read?_write_of_ne v (by omega)]

/-- `putBytes` keeps the canonical form. -/
theorem Memory.wf_putBytes {m m' : Memory} {i : Nat} {vs : List Byte} (h : m.wf)
    (hp : m.putBytes i vs = .ok m') : m'.wf := by
  induction vs generalizing m i with
  | nil => simp only [Memory.putBytes, Except.ok.injEq] at hp; exact hp ▸ h
  | cons v vs ih =>
    unfold Memory.putBytes at hp
    split at hp
    · exact ih (Memory.wf_put h ‹_›) hp
    · exact absurd hp (by simp)

/-! ### Reading byte strings -/

theorem Memory.get_eq_ok {m : Memory} {i : Nat} {b : Byte} :
    m.get i = .ok b ↔ i < Config.frameLen ∧ m.read? i = some b := by
  unfold Memory.get
  split
  · split <;> simp_all
  · simp_all

/-- What a `MemRead` that answers has read. -/
theorem Memory.getBytes_eq_ok {m : Memory} {i n : Nat} {bs : List Byte} :
    m.getBytes i n = .ok bs ↔
      bs.length = n ∧ ∀ k < n, i + k < Config.frameLen ∧ m.read? (i + k) = bs[k]? := by
  induction n generalizing i bs with
  | zero => cases bs <;> simp [Memory.getBytes]
  | succ n ih =>
    unfold Memory.getBytes
    constructor
    · intro h
      split at h
      · rename_i b bs' hb hbs
        obtain ⟨hi, hr⟩ := Memory.get_eq_ok.1 hb
        obtain ⟨hl, hk⟩ := ih.1 hbs
        cases h
        refine ⟨by simp [hl], fun k hkn => ?_⟩
        cases k with
        | zero => exact ⟨hi, by simpa using hr⟩
        | succ k =>
          obtain ⟨h1, h2⟩ := hk k (by omega)
          rw [show i + (k + 1) = i + 1 + k by omega]
          exact ⟨h1, by simpa using h2⟩
      · cases h
      · cases h
    · rintro ⟨hl, hk⟩
      cases bs with
      | nil => simp at hl
      | cons b bs =>
        have h0 := hk 0 (Nat.succ_pos n)
        have hb : m.get i = .ok b := Memory.get_eq_ok.2 ⟨by simpa using h0.1, by simpa using h0.2⟩
        have hbs : m.getBytes (i + 1) n = .ok bs := ih.2 ⟨by simpa using hl, fun k hkn => by
          have := hk (k + 1) (by omega)
          rw [show i + (k + 1) = i + 1 + k by omega] at this
          exact ⟨this.1, by simpa using this.2⟩⟩
        rw [hb, hbs]

/-- Reading bytes that are all written answers. -/
theorem Memory.getBytes_written {m : Memory} {i n : Nat} (hn : i + n ≤ Config.frameLen)
    (h : m.writtenIn i (i + n)) : ∃ bs, m.getBytes i n = .ok bs := by
  induction n generalizing i with
  | zero => exact ⟨[], rfl⟩
  | succ n ih =>
    obtain ⟨bs, hbs⟩ := ih (i := i + 1) (by omega) fun j hj hij => h j (by omega) (by omega)
    obtain ⟨b, hb⟩ := Option.isSome_iff_exists.1 (h i (by omega) (Nat.le_refl i))
    have : m.get i = .ok b := Memory.get_eq_ok.2 ⟨by omega, hb⟩
    exact ⟨b :: bs, by simp [Memory.getBytes, this, hbs]⟩

/-- A read of a byte string looks at its own bytes alone. -/
theorem Memory.getBytes_congr {m m' : Memory} {i n : Nat}
    (h : ∀ k < n, m.read? (i + k) = m'.read? (i + k)) : m.getBytes i n = m'.getBytes i n := by
  induction n generalizing i with
  | zero => rfl
  | succ n ih =>
    have h0 : m.get i = m'.get i := by
      have := h 0 (Nat.succ_pos n)
      simp only [Nat.add_zero] at this
      simp [Memory.get, this]
    have h1 : m.getBytes (i + 1) n = m'.getBytes (i + 1) n := ih fun k hk => by
      have := h (k + 1) (by omega)
      rwa [show i + (k + 1) = i + 1 + k by omega] at this
    simp only [Memory.getBytes, h0, h1]

/-! ### Buffers made of a byte string -/

theorem Memory.ofBytes_lt {i : Nat} {bs : List Byte} {c : Host.Cell} (h : c ∈ Memory.ofBytes i bs) :
    i ≤ c.1 ∧ c.1 < i + bs.length := by
  induction bs generalizing i with
  | nil => simp [Memory.ofBytes] at h
  | cons b bs ih =>
    rcases List.mem_cons.1 h with rfl | h
    · simp
    · have := ih h
      simp only [List.length_cons]
      omega

theorem Memory.wf_ofBytes {i : Nat} {bs : List Byte} (h : i + bs.length ≤ Config.frameLen) :
    (Memory.ofBytes i bs).wf := by
  refine ⟨?_, fun c hc => Nat.lt_of_lt_of_le (Memory.ofBytes_lt hc).2 h⟩
  clear h
  induction bs generalizing i with
  | nil => simp [Memory.ofBytes]
  | cons b bs ih =>
    exact List.pairwise_cons.2 ⟨fun c hc => (Memory.ofBytes_lt hc).1, ih⟩

/-- The zero frame that `withFetchWord` places in VAL is canonical. -/
theorem zeroFrame_wf : zeroFrame.wf := Memory.wf_ofBytes (by simp)

/-- A buffer made of `bs` at [i, i + length) reads as `bs` there. -/
theorem Memory.holdsAt_ofBytes (i : Nat) (bs : List Byte) : (Memory.ofBytes i bs).holdsAt i bs := by
  induction bs generalizing i with
  | nil => intro k hk; simp at hk
  | cons b bs ih =>
    intro k hk
    cases k with
    | zero => simp [Memory.ofBytes, Memory.read?]
    | succ k =>
      have hne : i ≠ i + (k + 1) := by omega
      rw [Memory.ofBytes, Memory.read?_cons, if_neg hne, show i + (k + 1) = i + 1 + k by omega,
        ih (i + 1) k (by simpa using hk)]
      simp

/-- A piece of a string that a buffer holds. -/
theorem Memory.holdsAt_piece {m : Memory} {a : Nat} {pre piece post : List Byte}
    (h : m.holdsAt a (pre ++ piece ++ post)) : m.holdsAt (a + pre.length) piece := by
  intro k hk
  have := h (pre.length + k) (by simp only [List.length_append]; omega)
  rw [← Nat.add_assoc] at this
  rw [this, List.append_assoc, List.getElem?_append_right (Nat.le_add_right ..), Nat.add_sub_cancel_left,
    List.getElem?_append_left hk]

end Sys2Proof.Machine
end

