-- ==== Sys2Proof/Laws/State.lean ====
section
/-!
SUPPORT. What each update of the state does to each field, true by `rfl`, and the ports and guards that
an update leaves as they are.
-/

namespace Sys2Proof.Machine

/-! ### `State.noDiag` -/

@[simp] theorem State.noDiag_st (s : State) : s.noDiag.st = s.st := rfl
@[simp] theorem State.noDiag_hc (s : State) : s.noDiag.hc = s.hc := rfl
@[simp] theorem State.noDiag_run (s : State) : s.noDiag.run = s.run := rfl
@[simp] theorem State.noDiag_pos (s : State) : s.noDiag.pos = s.pos := rfl
@[simp] theorem State.noDiag_buf (s : State) : s.noDiag.buf = s.buf := rfl
@[simp] theorem State.noDiag_mValid (s : State) : s.noDiag.mValid = s.mValid := rfl
@[simp] theorem State.noDiag_mRec (s : State) : s.noDiag.mRec = s.mRec := rfl
@[simp] theorem State.noDiag_ioError (s : State) : s.noDiag.ioError = s.ioError := rfl
@[simp] theorem State.noDiag_diagValid (s : State) : s.noDiag.diagValid = false := rfl
@[simp] theorem State.noDiag_diagReason (s : State) : s.noDiag.diagReason = 0b00#2 := rfl
@[simp] theorem State.noDiag_tsIn (s : State) : s.noDiag.tsIn = s.tsIn := rfl
@[simp] theorem State.noDiag_stream (s : State) : s.noDiag.stream = s.stream := rfl
@[simp] theorem State.noDiag_ticks (s : State) : s.noDiag.ticks = s.ticks := rfl
@[simp] theorem State.noDiag_freeCount (s : State) : s.noDiag.freeCount = s.freeCount := rfl

/-! ### `State.enterHunt` -/

@[simp] theorem State.enterHunt_st (s : State) : s.enterHunt.st = .hunt := rfl
@[simp] theorem State.enterHunt_hc (s : State) : s.enterHunt.hc = 0#3 := rfl
@[simp] theorem State.enterHunt_run (s : State) : s.enterHunt.run = 0#3 := rfl
@[simp] theorem State.enterHunt_pos (s : State) : s.enterHunt.pos = 0#9 := rfl
@[simp] theorem State.enterHunt_buf (s : State) : s.enterHunt.buf = s.buf := rfl
@[simp] theorem State.enterHunt_mValid (s : State) : s.enterHunt.mValid = s.mValid := rfl
@[simp] theorem State.enterHunt_mRec (s : State) : s.enterHunt.mRec = s.mRec := rfl
@[simp] theorem State.enterHunt_ioError (s : State) : s.enterHunt.ioError = s.ioError := rfl
@[simp] theorem State.enterHunt_diagValid (s : State) : s.enterHunt.diagValid = s.diagValid := rfl
@[simp] theorem State.enterHunt_diagReason (s : State) : s.enterHunt.diagReason = s.diagReason := rfl
@[simp] theorem State.enterHunt_tsIn (s : State) : s.enterHunt.tsIn = s.tsIn := rfl
@[simp] theorem State.enterHunt_stream (s : State) : s.enterHunt.stream = s.stream := rfl
@[simp] theorem State.enterHunt_ticks (s : State) : s.enterHunt.ticks = s.ticks := rfl
@[simp] theorem State.enterHunt_freeCount (s : State) : s.enterHunt.freeCount = s.freeCount := rfl

/-! ### `State.moveAt` -/

@[simp] theorem State.moveAt_st (s : State) (n : Nat) (q : St) : (s.moveAt n q).st = (if s.pos.toNat = n then q else s.st) := rfl
@[simp] theorem State.moveAt_hc (s : State) (n : Nat) (q : St) : (s.moveAt n q).hc = s.hc := rfl
@[simp] theorem State.moveAt_run (s : State) (n : Nat) (q : St) : (s.moveAt n q).run = s.run := rfl
@[simp] theorem State.moveAt_pos (s : State) (n : Nat) (q : St) : (s.moveAt n q).pos = s.pos := rfl
@[simp] theorem State.moveAt_buf (s : State) (n : Nat) (q : St) : (s.moveAt n q).buf = s.buf := rfl
@[simp] theorem State.moveAt_mValid (s : State) (n : Nat) (q : St) : (s.moveAt n q).mValid = s.mValid := rfl
@[simp] theorem State.moveAt_mRec (s : State) (n : Nat) (q : St) : (s.moveAt n q).mRec = s.mRec := rfl
@[simp] theorem State.moveAt_ioError (s : State) (n : Nat) (q : St) : (s.moveAt n q).ioError = s.ioError := rfl
@[simp] theorem State.moveAt_diagValid (s : State) (n : Nat) (q : St) : (s.moveAt n q).diagValid = s.diagValid := rfl
@[simp] theorem State.moveAt_diagReason (s : State) (n : Nat) (q : St) : (s.moveAt n q).diagReason = s.diagReason := rfl
@[simp] theorem State.moveAt_tsIn (s : State) (n : Nat) (q : St) : (s.moveAt n q).tsIn = s.tsIn := rfl
@[simp] theorem State.moveAt_stream (s : State) (n : Nat) (q : St) : (s.moveAt n q).stream = s.stream := rfl
@[simp] theorem State.moveAt_ticks (s : State) (n : Nat) (q : St) : (s.moveAt n q).ticks = s.ticks := rfl
@[simp] theorem State.moveAt_freeCount (s : State) (n : Nat) (q : St) : (s.moveAt n q).freeCount = s.freeCount := rfl

/-! ### `State.raiseFrameCorruption` -/

@[simp] theorem State.raiseFrameCorruption_st (s : State) (r : Corruption) : (s.raiseFrameCorruption r).st = .hunt := rfl
@[simp] theorem State.raiseFrameCorruption_hc (s : State) (r : Corruption) : (s.raiseFrameCorruption r).hc = 0#3 := rfl
@[simp] theorem State.raiseFrameCorruption_run (s : State) (r : Corruption) : (s.raiseFrameCorruption r).run = 0#3 := rfl
@[simp] theorem State.raiseFrameCorruption_pos (s : State) (r : Corruption) : (s.raiseFrameCorruption r).pos = 0#9 := rfl
@[simp] theorem State.raiseFrameCorruption_buf (s : State) (r : Corruption) : (s.raiseFrameCorruption r).buf = s.buf := rfl
@[simp] theorem State.raiseFrameCorruption_mValid (s : State) (r : Corruption) : (s.raiseFrameCorruption r).mValid = s.mValid := rfl
@[simp] theorem State.raiseFrameCorruption_mRec (s : State) (r : Corruption) : (s.raiseFrameCorruption r).mRec = s.mRec := rfl
@[simp] theorem State.raiseFrameCorruption_ioError (s : State) (r : Corruption) : (s.raiseFrameCorruption r).ioError = s.ioError := rfl
@[simp] theorem State.raiseFrameCorruption_diagValid (s : State) (r : Corruption) : (s.raiseFrameCorruption r).diagValid = true := rfl
@[simp] theorem State.raiseFrameCorruption_diagReason (s : State) (r : Corruption) : (s.raiseFrameCorruption r).diagReason = r.code := rfl
@[simp] theorem State.raiseFrameCorruption_tsIn (s : State) (r : Corruption) : (s.raiseFrameCorruption r).tsIn = s.tsIn := rfl
@[simp] theorem State.raiseFrameCorruption_stream (s : State) (r : Corruption) : (s.raiseFrameCorruption r).stream = s.stream := rfl
@[simp] theorem State.raiseFrameCorruption_ticks (s : State) (r : Corruption) : (s.raiseFrameCorruption r).ticks = s.ticks := rfl
@[simp] theorem State.raiseFrameCorruption_freeCount (s : State) (r : Corruption) : (s.raiseFrameCorruption r).freeCount = s.freeCount := rfl

/-! ### `State.raiseSourceError` -/

@[simp] theorem State.raiseSourceError_st (s : State) : s.raiseSourceError.st = .failed := rfl
@[simp] theorem State.raiseSourceError_hc (s : State) : s.raiseSourceError.hc = s.hc := rfl
@[simp] theorem State.raiseSourceError_run (s : State) : s.raiseSourceError.run = s.run := rfl
@[simp] theorem State.raiseSourceError_pos (s : State) : s.raiseSourceError.pos = s.pos := rfl
@[simp] theorem State.raiseSourceError_buf (s : State) : s.raiseSourceError.buf = s.buf := rfl
@[simp] theorem State.raiseSourceError_mValid (s : State) : s.raiseSourceError.mValid = s.mValid := rfl
@[simp] theorem State.raiseSourceError_mRec (s : State) : s.raiseSourceError.mRec = s.mRec := rfl
@[simp] theorem State.raiseSourceError_ioError (s : State) : s.raiseSourceError.ioError = true := rfl
@[simp] theorem State.raiseSourceError_diagValid (s : State) : s.raiseSourceError.diagValid = false := rfl
@[simp] theorem State.raiseSourceError_diagReason (s : State) : s.raiseSourceError.diagReason = 0b00#2 := rfl
@[simp] theorem State.raiseSourceError_tsIn (s : State) : s.raiseSourceError.tsIn = s.tsIn := rfl
@[simp] theorem State.raiseSourceError_stream (s : State) : s.raiseSourceError.stream = s.stream := rfl
@[simp] theorem State.raiseSourceError_ticks (s : State) : s.raiseSourceError.ticks = s.ticks := rfl
@[simp] theorem State.raiseSourceError_freeCount (s : State) : s.raiseSourceError.freeCount = s.freeCount := rfl

/-! ### `State.drawRec` -/

@[simp] theorem State.drawRec_st (s : State) : s.drawRec.st = s.st := rfl
@[simp] theorem State.drawRec_hc (s : State) : s.drawRec.hc = s.hc := rfl
@[simp] theorem State.drawRec_run (s : State) : s.drawRec.run = s.run := rfl
@[simp] theorem State.drawRec_pos (s : State) : s.drawRec.pos = s.pos := rfl
@[simp] theorem State.drawRec_buf (s : State) : s.drawRec.buf = s.buf := rfl
@[simp] theorem State.drawRec_mValid (s : State) : s.drawRec.mValid = s.mValid := rfl
@[simp] theorem State.drawRec_mRec (s : State) : s.drawRec.mRec = Measurement.ofBits (Config.freeRecBits s.freeCount) := rfl
@[simp] theorem State.drawRec_ioError (s : State) : s.drawRec.ioError = s.ioError := rfl
@[simp] theorem State.drawRec_diagValid (s : State) : s.drawRec.diagValid = s.diagValid := rfl
@[simp] theorem State.drawRec_diagReason (s : State) : s.drawRec.diagReason = s.diagReason := rfl
@[simp] theorem State.drawRec_tsIn (s : State) : s.drawRec.tsIn = s.tsIn := rfl
@[simp] theorem State.drawRec_stream (s : State) : s.drawRec.stream = s.stream := rfl
@[simp] theorem State.drawRec_ticks (s : State) : s.drawRec.ticks = s.ticks := rfl
@[simp] theorem State.drawRec_freeCount (s : State) : s.drawRec.freeCount = s.freeCount + 1 := rfl

/-! ### `State.advance` -/

@[simp] theorem State.advance_st (s : State) (t : Tick) : (s.advance t).st = s.st := rfl
@[simp] theorem State.advance_hc (s : State) (t : Tick) : (s.advance t).hc = s.hc := rfl
@[simp] theorem State.advance_run (s : State) (t : Tick) : (s.advance t).run = s.run := rfl
@[simp] theorem State.advance_pos (s : State) (t : Tick) : (s.advance t).pos = s.pos := rfl
@[simp] theorem State.advance_buf (s : State) (t : Tick) : (s.advance t).buf = s.buf := rfl
@[simp] theorem State.advance_mValid (s : State) (t : Tick) : (s.advance t).mValid = s.mValid := rfl
@[simp] theorem State.advance_mRec (s : State) (t : Tick) : (s.advance t).mRec = s.mRec := rfl
@[simp] theorem State.advance_ioError (s : State) (t : Tick) : (s.advance t).ioError = s.ioError := rfl
@[simp] theorem State.advance_diagValid (s : State) (t : Tick) : (s.advance t).diagValid = s.diagValid := rfl
@[simp] theorem State.advance_diagReason (s : State) (t : Tick) : (s.advance t).diagReason = s.diagReason := rfl
@[simp] theorem State.advance_tsIn (s : State) (t : Tick) : (s.advance t).tsIn = t.tsIn := rfl
@[simp] theorem State.advance_stream (s : State) (t : Tick) : (s.advance t).stream = (if s.transfers t then s.stream.tail else s.stream) := rfl
@[simp] theorem State.advance_ticks (s : State) (t : Tick) : (s.advance t).ticks = s.ticks.tail := rfl
@[simp] theorem State.advance_freeCount (s : State) (t : Tick) : (s.advance t).freeCount = s.freeCount := rfl

/-! ### `State.feeding` -/

@[simp] theorem State.feeding_st (s : State) (bs : List Byte) : (s.feeding bs).st = s.st := rfl
@[simp] theorem State.feeding_hc (s : State) (bs : List Byte) : (s.feeding bs).hc = s.hc := rfl
@[simp] theorem State.feeding_run (s : State) (bs : List Byte) : (s.feeding bs).run = s.run := rfl
@[simp] theorem State.feeding_pos (s : State) (bs : List Byte) : (s.feeding bs).pos = s.pos := rfl
@[simp] theorem State.feeding_buf (s : State) (bs : List Byte) : (s.feeding bs).buf = s.buf := rfl
@[simp] theorem State.feeding_mValid (s : State) (bs : List Byte) : (s.feeding bs).mValid = s.mValid := rfl
@[simp] theorem State.feeding_mRec (s : State) (bs : List Byte) : (s.feeding bs).mRec = s.mRec := rfl
@[simp] theorem State.feeding_ioError (s : State) (bs : List Byte) : (s.feeding bs).ioError = s.ioError := rfl
@[simp] theorem State.feeding_diagValid (s : State) (bs : List Byte) : (s.feeding bs).diagValid = s.diagValid := rfl
@[simp] theorem State.feeding_diagReason (s : State) (bs : List Byte) : (s.feeding bs).diagReason = s.diagReason := rfl
@[simp] theorem State.feeding_tsIn (s : State) (bs : List Byte) : (s.feeding bs).tsIn = s.tsIn := rfl
@[simp] theorem State.feeding_stream (s : State) (bs : List Byte) : (s.feeding bs).stream = bs.map byteResult ++ s.stream := rfl
@[simp] theorem State.feeding_ticks (s : State) (bs : List Byte) : (s.feeding bs).ticks = bs.map (fun _ => Tick.offering s.tsIn) ++ s.ticks := rfl
@[simp] theorem State.feeding_freeCount (s : State) (bs : List Byte) : (s.feeding bs).freeCount = s.freeCount := rfl

/-! ### Values the statements name -/

@[simp] theorem Corruption.code_endMarkerMismatch : Corruption.endMarkerMismatch.code = 0b01#2 := rfl
@[simp] theorem Corruption.code_crcMismatch : Corruption.crcMismatch.code = 0b10#2 := rfl

/-- A reason code is neither "no event" nor the reserved code (R140). -/
theorem Corruption.code_legal (r : Corruption) : r.code ≠ 0b00#2 ∧ r.code ≠ 0b11#2 := by
  cases r <;> decide

/-- A state that takes read results is no reserved one. -/
theorem St.not_reserved_of_reads {q : St} (h : q.reads = true) : q.isReserved = false := by
  cases q <;> first | rfl | exact absurd h (by decide)

@[simp] theorem iwIsError_byteResult (b : Byte) : iwIsError (byteResult b) = false := by
  simp only [iwIsError, byteResult, BitVec.getLsbD_append]; rfl

@[simp] theorem iwIsError_failResult (b : Byte) : iwIsError (failResult b) = true := by
  simp only [iwIsError, failResult, BitVec.getLsbD_append]; rfl

@[simp] theorem iwData_byteResult (b : Byte) : iwData (byteResult b) = b := by
  unfold iwData byteResult
  exact BitVec.extractLsb'_append_eq_right

@[simp] theorem guarded_true {s : State} (h : s.st.isReserved = false) (a : Answer) : guarded s true a = a := by
  simp [guarded, h]

@[simp] theorem orFault_ok {α : Type} (a : α) (k : α → Answer) : orFault (.ok a) k = k a := rfl

@[simp] theorem orFault_error {α : Type} (f : Fault) (k : α → Answer) : orFault (.error f) k = .fault f := rfl

end Sys2Proof.Machine
end

