-- ==== Sys2Proof/Laws/Ops.lean ====
section
/-!
SUPPORT. One lemma for each shared operation that says once everything it can do: the guards, the store
of a byte, the checks of the validator, the decode of the fields, the event at the ports and the step.
-/

namespace Sys2Proof.Machine

/-! ### Guards and faults -/

/-- A guarded operation answers a next state exactly where it is selected and answers it. -/
theorem guarded_eq_next {s t : State} {c : Bool} {a : Answer} :
    guarded s c a = .next t ↔ s.st.isReserved = false ∧ c = true ∧ a = .next t := by
  unfold guarded
  cases s.st.isReserved <;> cases c <;> simp

theorem orFault_eq_next {α : Type} {x : Except Fault α} {k : α → Answer} {t : State} :
    orFault x k = .next t ↔ ∃ a, x = .ok a ∧ k a = .next t := by
  cases x <;> simp [orFault]

theorem guarded_reserved {s : State} (h : s.st.isReserved = true) (c : Bool) (a : Answer) :
    guarded s c a = .fault .reservedState := by simp [guarded, h]

theorem guarded_not_selected {s : State} (h : s.st.isReserved = false) (a : Answer) :
    guarded s false a = .refused .notEnabled := by simp [guarded, h]

/-! ### Storing a byte -/

/-- `storeByte` answers exactly where `pos` is an index of the buffer; it writes that one byte and `pos`. -/
theorem State.storeByte_eq_ok {s s' : State} {b : Byte} {p : Index} :
    s.storeByte b p = .ok s' ↔
      s.pos.toNat < Config.frameLen ∧ s' = { s with buf := s.buf.write s.pos.toNat b, pos := p } := by
  unfold State.storeByte
  by_cases h : s.pos.toNat < Config.frameLen
  · simp [h, eq_comm]
  · simp [Memory.put_of_ge (Nat.le_of_not_lt h), h]

theorem State.storeByte_of_ge {s : State} (b : Byte) (p : Index) (h : Config.frameLen ≤ s.pos.toNat) :
    s.storeByte b p = .error (.noSuchIndex s.pos.toNat) := by
  simp [State.storeByte, Memory.put_of_ge h]

/-! ### The validator -/

/-- `EM_OK` has an answer exactly where the five bytes are written, and says whether they are the marker. -/
theorem emOk_eq_ok {m : Memory} {e : Bool} :
    emOk m = .ok e ↔ ∃ bs, m.getBytes 396 5 = .ok bs ∧ e = decide (bs = Config.endMarker) := by
  unfold emOk
  show (m.getBytes 396 5).map _ = _ ↔ _
  cases m.getBytes 396 5 <;> simp [Except.map, eq_comm]

/-- `CRC_OK` has an answer exactly where the span and the field are written. -/
theorem crcOk_eq_ok {m : Memory} {c : Bool} :
    crcOk m = .ok c ↔ ∃ span field, m.getBytes 59 306 = .ok span ∧ m.getBytes 366 2 = .ok field ∧
      c = decide ((Config.crc16Fn span).toNat = beU field) := by
  unfold crcOk
  show (match m.getBytes 59 306, m.getBytes 366 2 with
    | .ok span, .ok field => Except.ok (decide ((Config.crc16Fn span).toNat = beU field))
    | .error f, _ => .error f
    | .ok _, .error f => .error f) = _ ↔ _
  cases m.getBytes 59 306 <;> cases m.getBytes 366 2 <;> simp [eq_comm]

theorem frameValid_eq_ok {m : Memory} {v : Bool} :
    frameValid m = .ok v ↔ ∃ e c, emOk m = .ok e ∧ crcOk m = .ok c ∧ v = (e && c) := by
  unfold frameValid
  cases emOk m <;> cases crcOk m <;> simp [eq_comm]

theorem corruptionOf_eq_ok {m : Memory} {r : Corruption} :
    corruptionOf m = .ok r ↔ ∃ e, emOk m = .ok e ∧ r = if e then .crcMismatch else .endMarkerMismatch := by
  unfold corruptionOf
  cases emOk m <;> simp [Except.map, eq_comm]

/-- The guard of the validation step. -/
theorem whenFrame_eq_next {s t : State} {v : Bool} {a : Answer} :
    whenFrame s v a = .next t ↔ s.st = .val ∧ frameValid s.buf = .ok v ∧ a = .next t := by
  unfold whenFrame
  rw [guarded_eq_next, orFault_eq_next]
  constructor
  · rintro ⟨_, hst, w, hw, h⟩
    obtain ⟨_, hv, ha⟩ := guarded_eq_next.1 h
    obtain rfl : w = v := by simpa using hv
    exact ⟨by simpa using hst, hw, ha⟩
  · rintro ⟨hst, hv, ha⟩
    exact ⟨by simp [hst, St.isReserved], by simp [hst], v, hv, guarded_eq_next.2 ⟨by simp [hst, St.isReserved], by simp, ha⟩⟩

/-! ### The field decoder -/

theorem FrameField.raw_eq_ok {f : FrameField} {m : Memory} {z : Int} :
    f.raw m = .ok z ↔ ∃ bs, m.getBytes f.row.offset f.row.width = .ok bs ∧ z = f.ofBytes bs := by
  unfold FrameField.raw
  cases m.getBytes f.row.offset f.row.width <;> simp [Except.map, eq_comm]

theorem except_bind_eq_ok {α β : Type} {x : Except Fault α} {k : α → Except Fault β} {b : β} :
    (x >>= k) = .ok b ↔ ∃ a, x = .ok a ∧ k a = .ok b := by
  cases x <;> simp [bind, Except.bind]

theorem except_map_eq_ok {α β : Type} {x : Except Fault α} {k : α → β} {b : β} :
    x.map k = .ok b ↔ ∃ a, x = .ok a ∧ k a = b := by
  cases x <;> simp [Except.map]

/-- The record that holds the raw integers `z` at the widths of their ports. -/
def Measurement.ofRaw (z : FrameField → Int) (ts : BitVec Config.tsW) : Measurement :=
  ⟨BitVec.ofInt 32 (z .secondsIndex), BitVec.ofInt 64 (z .energyCount), BitVec.ofInt 64 (z .power),
    BitVec.ofInt 64 (z .powerL1), BitVec.ofInt 64 (z .powerL2), BitVec.ofInt 64 (z .powerL3),
    BitVec.ofInt 16 (z .voltageL1), BitVec.ofInt 16 (z .voltageL2), BitVec.ofInt 16 (z .voltageL3), ts⟩

/-- `Decode` answers exactly where the nine fields are written, and holds each at its width. -/
theorem decodeFrame_eq_ok {m : Memory} {ts : BitVec Config.tsW} {r : Measurement} :
    decodeFrame m ts = .ok r ↔
      ∃ z : FrameField → Int, (∀ f : FrameField, f.raw m = .ok (z f)) ∧ r = Measurement.ofRaw z ts := by
  constructor
  · intro h
    simp only [decodeFrame, secondsIndexOf, energyCountOf, powerOf, powerL1Of, powerL2Of, powerL3Of,
      voltageL1Of, voltageL2Of, voltageL3Of, except_bind_eq_ok, except_map_eq_ok] at h
    obtain ⟨_, ⟨z1, h1, rfl⟩, _, ⟨z2, h2, rfl⟩, _, ⟨z3, h3, rfl⟩, _, ⟨z4, h4, rfl⟩, _, ⟨z5, h5, rfl⟩,
      _, ⟨z6, h6, rfl⟩, _, ⟨z7, h7, rfl⟩, _, ⟨z8, h8, rfl⟩, _, ⟨z9, h9, rfl⟩, h⟩ := h
    refine ⟨fun
      | .secondsIndex => z1 | .energyCount => z2 | .power => z3 | .powerL1 => z4 | .powerL2 => z5
      | .powerL3 => z6 | .voltageL1 => z7 | .voltageL2 => z8 | .voltageL3 => z9, ?_, ?_⟩
    · intro f
      cases f <;> assumption
    · simpa [pure, Except.pure, eq_comm, Measurement.ofRaw] using h
  · rintro ⟨z, hz, rfl⟩
    simp [decodeFrame, secondsIndexOf, energyCountOf, powerOf, powerL1Of, powerL2Of, powerL3Of, voltageL1Of,
      voltageL2Of, voltageL3Of, hz, Except.map, bind, Except.bind, pure, Except.pure, Measurement.ofRaw]

/-! ### The step -/

/-- What the ports can select at an edge (R170). -/
theorem fetch_cases {s : State} {t : Tick} {w : StepWord} (h : fetch s t = some w) :
    (t.rst = true ∧ w = .rst1 1#1) ∨
    (t.rst = false ∧ s.transfers t = true ∧ s.sErr = true ∧ w = .ev13 (mkEvent s.st .error 0#8)) ∨
    (t.rst = false ∧ s.transfers t = true ∧ s.sErr = false ∧ w = .ev13 (mkEvent s.st .byte s.sData)) ∨
    (t.rst = false ∧ s.st = .val ∧ t.valDone = true ∧ w = .ev13 (mkEvent .val .internal 0#8)) ∨
    (t.rst = false ∧ s.st = .emit ∧ t.mReady = true ∧ w = .ev13 (mkEvent .emit .accept 0#8)) := by
  unfold fetch at h
  cases hr : t.rst
  · rw [hr] at h
    cases ht : s.transfers t
    · rw [ht] at h
      cases hs : s.st <;> simp [hs] at h
      · exact .inr (.inr (.inr (.inl ⟨rfl, rfl, h.1, h.2.symm⟩)))
      · exact .inr (.inr (.inr (.inr ⟨rfl, rfl, h.1, h.2.symm⟩)))
    · rw [ht] at h
      cases he : s.sErr <;> simp [he] at h
      · exact .inr (.inr (.inl ⟨rfl, rfl, rfl, h.symm⟩))
      · exact .inr (.inl ⟨rfl, rfl, rfl, h.symm⟩)
  · simp [hr] at h
    exact .inl ⟨rfl, h.symm⟩

/-- A transfer happens in a reading state, at an edge with no reset, of the head of the stream. -/
theorem State.transfers_iff {s : State} {t : Tick} :
    s.transfers t = true ↔ t.rst = false ∧ t.offer = true ∧ s.st.reads = true ∧ s.stream ≠ [] := by
  unfold State.transfers State.sValid State.sReady
  cases t.rst <;> cases t.offer <;> cases s.st.reads <;> cases s.stream <;> simp

/-- Under R31 the edge that selects ACCEPT (R170) is the one of the handshake `m_valid` and `m_ready` (R33). -/
theorem State.accepts_iff_fetch {s : State} {t : Tick} (h : s.mValid = true ↔ s.st = .emit) :
    s.accepts t = true ↔ fetch s t = some (.ev13 (mkEvent .emit .accept 0#8)) := by
  have hw : ∀ (q : St) (k : Kind) (b : Byte), mkEvent q k b = mkEvent .emit .accept 0#8 → q = .emit ∧ k = .accept := by
    intro q k b hb
    have h₁ := congrArg evState hb
    have h₂ := congrArg evKind hb
    rw [evState_mkEvent, evState_mkEvent] at h₁
    rw [evKind_mkEvent, evKind_mkEvent] at h₂
    exact ⟨h₁, h₂⟩
  constructor
  · intro ha
    simp only [State.accepts, State.mValidPort, Bool.and_eq_true, Bool.not_eq_true'] at ha
    obtain ⟨⟨hv, hr⟩, hm⟩ := ha
    have hst := h.1 hv
    have ht : s.transfers t = false := by simp [State.transfers, State.sReady, hst, St.reads]
    simp [fetch, hr, ht, hst, hm]
  · intro hf
    rcases fetch_cases hf with ⟨_, hx⟩ | ⟨_, _, _, hx⟩ | ⟨_, _, _, hx⟩ | ⟨_, _, _, hx⟩ | ⟨hr, hst, hm, _⟩
    · cases hx
    · injection hx with hx
      exact absurd (hw _ _ _ hx.symm).2 (by decide)
    · injection hx with hx
      exact absurd (hw _ _ _ hx.symm).2 (by decide)
    · injection hx with hx
      exact absurd (hw _ _ _ hx.symm).2 (by decide)
    · simp [State.accepts, State.mValidPort, h.2 hst, hr, hm]

/-- What a selected operation is: the decode of the step word under the guards of the state. -/
theorem select_eq_next {s : State} {w : StepWord} {i : Instr} :
    select s w = .next i ↔ ∃ g, guardsAt s w = .ok g ∧ decode g w = .ok i := by
  unfold select
  cases guardsAt s w with
  | error f => simp
  | ok g =>
    cases h : decode g w with
    | ok j => simp [h]
    | error e => cases e <;> simp [h]

/-- Everything a step that answers can be: no edge, an edge that is no step, or one operation. -/
theorem step_cases {s s' : State} (h : step s = .next s') :
    (s.ticks = [] ∧ s' = s) ∨
    ∃ t rest, s.ticks = t :: rest ∧
      ((fetch s t = none ∧ s.st.isReserved = false ∧ s' = (s.advance t).noDiag) ∨
        ∃ w i, fetch s t = some w ∧ select s w = .next i ∧ exec i (s.advance t) = .next s') := by
  unfold step at h
  cases ht : s.ticks with
  | nil => rw [ht] at h; cases h; exact .inl ⟨rfl, rfl⟩
  | cons t rest =>
    rw [ht] at h
    refine .inr ⟨t, rest, rfl, ?_⟩
    cases hf : fetch s t with
    | none =>
      simp only [hf, idle, State.advance_st] at h
      cases hres : s.st.isReserved
      · simp only [hres, Bool.false_eq_true, if_false, Host.Outcome.next.injEq] at h
        exact .inl ⟨rfl, rfl, h.symm⟩
      · simp [hres] at h
    | some w =>
      simp only [hf] at h
      cases hs : select s w with
      | next i => rw [hs] at h; exact .inr ⟨w, i, rfl, hs, h⟩
      | fault f => rw [hs] at h; cases h
      | refused r => rw [hs] at h; cases h

end Sys2Proof.Machine
end

