-- ==== Sys2Proof/Laws/PerInstr.lean ====
section
/-!
SUPPORT. Facts about every operation as syntax, one lemma per constructor: the encoder writes the word
that the operation's row of `opcode_table.json` matches.
-/

namespace Sys2Proof.Laws.EncodingMatchesRow

/-- The word, masked as the row says, is the row's `match`; a row without an event word is the `rst`
input at 1. -/
def rowMatches : Option TableRow → StepWord → Bool
  | some row, .ev13 ev => decide (ev &&& row.mask = row.bits)
  | none, .rst1 rst => decide (rst = 1#1)
  | some _, .rst1 _ => false
  | none, .ev13 _ => false

/-- The encoder writes a word that the operation's row matches. -/
def Statement (i : Instr) : Prop := i.wellFormed = true → rowMatches i.tableRow (encode i) = true

theorem huntEsc : Statement .huntEsc := fun _ => by decide

theorem huntSoh : Statement .huntSoh := fun _ => by decide

theorem huntComplete : Statement .huntComplete := fun _ => by decide

/-- A BYTE event's word under the mask of the rows that leave the byte free. -/
theorem rowMatches_byte (st : St) (b : Byte) :
    rowMatches (some ⟨(st.code ++ 0b00#2) ++ 0#8, 0x1F00#13⟩) (.ev13 (mkEvent st .byte b)) = true := by
  cases st <;> revert b <;> decide

theorem huntMismatch (b : Byte) : Statement (.huntMismatch b) := fun _ => rowMatches_byte .hunt b

theorem accEsc : Statement .accEsc := fun _ => by decide

theorem accCollapse : Statement .accCollapse := fun _ => by decide

theorem accOther (b : Byte) : Statement (.accOther b) := fun _ => rowMatches_byte .acc b

theorem trlByte (b : Byte) : Statement (.trlByte b) := fun _ => rowMatches_byte .trl b

theorem validatePass : Statement .validatePass := fun _ => by decide

theorem validateFail : Statement .validateFail := fun _ => by decide

theorem emitAccept : Statement .emitAccept := fun _ => by decide

theorem srcError (src : St) : Statement (.srcError src) := fun _ => by cases src <;> decide

theorem reset : Statement .reset := fun _ => by decide

end Sys2Proof.Laws.EncodingMatchesRow
end

