-- ==== Sys2Proof/Laws/Run.lean ====
section
/-!
SUPPORT. Runs of several edges: one edge at a time, and one run after another.
-/

namespace Sys2Proof.Machine

@[simp] theorem run_zero (s : State) : run 0 s = .next s := rfl

/-- A run of any machine whose first step answers goes on from there. -/
theorem coreRun_succ_of_next (M : Host.Core) {k : Nat} {s s' : M.State} (h : M.step s = .next s') :
    M.run (k + 1) s = M.run k s' := by
  rw [Host.Core.run, h]

/-- A run of any machine that answers has a first step that answers. -/
theorem coreRun_succ_eq_next (M : Host.Core) {k : Nat} {s t : M.State} (h : M.run (k + 1) s = .next t) :
    ∃ s', M.step s = .next s' ∧ M.run k s' = .next t := by
  rw [Host.Core.run] at h
  cases hs : M.step s with
  | next s' => rw [hs] at h; exact ⟨s', rfl, h⟩
  | fault f => rw [hs] at h; cases h
  | refused r => rw [hs] at h; cases h

theorem run_succ_of_next {k : Nat} {s s' : State} (h : step s = .next s') : run (k + 1) s = run k s' :=
  coreRun_succ_of_next Sys2Proof.core h

theorem run_succ_eq_next {k : Nat} {s t : State} (h : run (k + 1) s = .next t) :
    ∃ s', step s = .next s' ∧ run k s' = .next t :=
  coreRun_succ_eq_next Sys2Proof.core h

/-- One run after another. -/
theorem run_add_of_next {j k : Nat} {s u t : State} (h₁ : run j s = .next u) (h₂ : run k u = .next t) :
    run (j + k) s = .next t := by
  induction j generalizing s with
  | zero => cases h₁; simpa using h₂
  | succ j ih =>
    obtain ⟨s', hs, hr⟩ := run_succ_eq_next h₁
    rw [show j + 1 + k = j + k + 1 by omega, run_succ_of_next hs]
    exact ih hr

end Sys2Proof.Machine
end

