-- ==== Sys2Proof/Machine/Crc.lean ====
section
/-!
DEFINITION. `CRC16_SML`, the spec's candidate for the open `CRC16_FN` (41_validator.md R101). No
operation calls it: it is a test convenience of the spec, not a claim about the meter (R100, D8).
-/

namespace Sys2Proof.Machine

/-- One of the eight shifts of a byte (R101). -/
def crcShift (c : BitVec 16) : BitVec 16 := if c.getLsbD 0 then (c >>> 1) ^^^ 0x8408#16 else c >>> 1

/-- One byte of the string (R101). -/
def crcByte (c : BitVec 16) (b : Byte) : BitVec 16 := Nat.repeat crcShift 8 (c ^^^ b.zeroExtend 16)

/-- CRC-16/X-25 of a byte string (R101). -/
def crcX25 (s : List Byte) : BitVec 16 := s.foldl crcByte 0xFFFF#16 ^^^ 0xFFFF#16

/-- `CRC16_SML` (R101): X-25 with its bytes swapped. -/
def crc16Sml (s : List Byte) : BitVec 16 := (crcX25 s).extractLsb' 0 8 ++ (crcX25 s).extractLsb' 8 8

end Sys2Proof.Machine
end

