-- ==== Sys2Proof/Machine/Stimulus.lean ====
section
/-!
DEFINITION. The stimulus notation and its runner (30_encoding.md R71, R72, D19).
-/

namespace Sys2Proof.Machine

/-- A primitive statement (R71). -/
inductive Stim where
  | byte (b : Byte)
  | err
  | accept
  | reset
deriving DecidableEq, Repr

/-- `BYTES` (R72). -/
def Stim.bytes (bs : List Byte) : List Stim := bs.map Stim.byte

/-- `REPEAT n xx` (R72). -/
def Stim.times (n : Nat) (b : Byte) : List Stim := List.replicate n (.byte b)

/-- `STREAM name WITH i:=xx` (R72), on the raw bytes of the stream. -/
def Stim.streamWith (raw : List Byte) (i : Nat) (b : Byte) : List Stim := Stim.bytes (raw.set i b)

/-- A tick at which `ts_in` is `ts`. -/
def Tick.stamped (ts : BitVec Config.tsW) : Tick := { Tick.quiet with tsIn := ts }

/-- The statement's event is enabled in the state (R63). -/
def Stim.enabled (s : State) : Stim → Bool
  | .byte _ => s.st.reads
  | .err => s.st.reads
  | .accept => decide (s.st = .emit)
  | .reset => true

/-- The state with the statement's event on the ports of the next edge. -/
def Stim.place (s : State) (ts : BitVec Config.tsW) : Stim → State
  | .byte b => { s with stream := byteResult b :: s.stream, ticks := { Tick.stamped ts with offer := true } :: s.ticks }
  | .err => { s with stream := failResult 0#8 :: s.stream, ticks := { Tick.stamped ts with offer := true } :: s.ticks }
  | .accept => { s with ticks := { Tick.stamped ts with mReady := true } :: s.ticks }
  | .reset => { s with ticks := { Tick.stamped ts with rst := true } :: s.ticks }

/-- Run a program from step number `n` on (R71): a statement whose event is not enabled is the runner's
fault `NotEnabled`, a refusal here; the INTERNAL step is performed as soon as the block is in VAL.
`ts_in` is the number of the step (95_test_vectors.md). -/
def Stim.run (n : Nat) (s : State) : List Stim → Answer
  | [] => .next s
  | x :: xs =>
    if x.enabled s then
      match step (x.place s (BitVec.ofNat _ n)) with
      | .next s₁ =>
        if s₁.st = .val then
          match step { s₁ with ticks := { Tick.stamped (BitVec.ofNat _ (n + 1)) with valDone := true } :: s₁.ticks } with
          | .next s₂ => Stim.run (n + 2) s₂ xs
          | .fault f => .fault f
          | .refused r => .refused r
        else Stim.run (n + 1) s₁ xs
      | .fault f => .fault f
      | .refused r => .refused r
    else .refused .notEnabled

end Sys2Proof.Machine
end

