-- ==== Sys2Proof/Tests/Slice0.lean ====
section
/-!
SUPPORT. Tests: the smoke test of the well-formedness check, words of every operation written out from
its encoding, single steps with the values of 95_test_vectors.md section 2, and, for every statement
with hypotheses, a witness that meets them all.
-/

namespace Sys2Proof.Tests

open Sys2Proof Sys2Proof.Machine

/-! ### Well-formedness refuses what the guards of the table refuse -/

theorem test_wellFormed_accOther_esc : (Instr.accOther 0x1B#8).wellFormed = false := by decide
theorem test_wellFormed_accOther_soh : (Instr.accOther 0x01#8).wellFormed = true := by decide
theorem test_wellFormed_srcError :
    (Instr.srcError .val).wellFormed = false ∧ (Instr.srcError .emit).wellFormed = false ∧
      (Instr.srcError .failed).wellFormed = false ∧ (Instr.srcError .reserved6).wellFormed = false ∧
      (Instr.srcError .reserved7).wellFormed = false ∧ (Instr.srcError .trl).wellFormed = true := by decide

/-! ### Words, bit by bit from the encodings of R81 to R88, R105, R106, R134, R141, R160 -/

/-- The operation a word decodes to under a hunt count, a run count and a frame verdict. -/
def decoded (hc run : Count) (valid : Bool) (w : StepWord) : Option Instr := (decode ⟨hc, run, valid⟩ w).toOption

theorem test_decode_huntEsc : decoded 3 0 false (.ev13 0b0000000011011#13) = some .huntEsc := by decide
theorem test_decode_huntSoh : decoded 6 0 false (.ev13 0b0000000000001#13) = some .huntSoh := by decide
theorem test_decode_huntComplete : decoded 7 0 false (.ev13 0b0000000000001#13) = some .huntComplete := by decide
theorem test_decode_huntMismatch :
    decoded 0 0 false (.ev13 0b0000000000001#13) = some (.huntMismatch 0x01#8) ∧
      decoded 4 0 false (.ev13 0b0000000011011#13) = some (.huntMismatch 0x1B#8) ∧
      decoded 7 0 false (.ev13 0b0000011111111#13) = some (.huntMismatch 0xFF#8) := by decide
theorem test_decode_accEsc : decoded 0 6 false (.ev13 0b0010000011011#13) = some .accEsc := by decide
theorem test_decode_accCollapse : decoded 0 7 false (.ev13 0b0010000011011#13) = some .accCollapse := by decide
theorem test_decode_accOther : decoded 0 7 false (.ev13 0b0010000011010#13) = some (.accOther 0x1A#8) := by decide
theorem test_decode_trlByte :
    decoded 0 7 false (.ev13 0b0100000011011#13) = some (.trlByte 0x1B#8) ∧
      decoded 0 0 false (.ev13 0b0100010000001#13) = some (.trlByte 0x81#8) := by decide
theorem test_decode_validatePass : decoded 0 0 true (.ev13 0b0111000000000#13) = some .validatePass := by decide
theorem test_decode_validateFail : decoded 0 0 false (.ev13 0b0111000000000#13) = some .validateFail := by decide
theorem test_decode_emitAccept : decoded 0 0 false (.ev13 0b1001100000000#13) = some .emitAccept := by decide
theorem test_decode_srcError :
    decoded 0 0 false (.ev13 0b0000100000000#13) = some (.srcError .hunt) ∧
      decoded 0 0 false (.ev13 0b0010100000000#13) = some (.srcError .acc) ∧
      decoded 0 0 false (.ev13 0b0100100000000#13) = some (.srcError .trl) := by decide
theorem test_decode_reset : decoded 0 0 false (.rst1 1#1) = some .reset := by decide
theorem test_decode_notEnabled :
    decoded 0 0 false (.ev13 0b1000000000000#13) = none ∧ decoded 0 0 false (.ev13 0b0111100000000#13) = none ∧
      decoded 0 0 false (.ev13 0b1010100000000#13) = none ∧ decoded 0 0 true (.ev13 0b1101000000000#13) = none := by decide

/-- Table words under the guards nearest the reset state (log entry 10). -/
theorem test_tableWords :
    decodeTableWord 16 0x001B = some .huntEsc ∧ decodeTableWord 16 0x0001 = some .huntSoh ∧
      decodeTableWord 16 0x0000 = some (.huntMismatch 0#8) ∧ decodeTableWord 16 0x041B = some .accEsc ∧
      decodeTableWord 16 0x0400 = some (.accOther 0#8) ∧ decodeTableWord 16 0x0800 = some (.trlByte 0#8) ∧
      decodeTableWord 16 0x0E00 = some .validateFail ∧ decodeTableWord 16 0x1300 = some .emitAccept ∧
      decodeTableWord 16 0x0100 = some (.srcError .hunt) ∧ decodeTableWord 8 1 = some .reset := by decide

/-! ### Small states -/

/-- HUNT with a counter. -/
def atHunt (hc : Count) : State := { State.reset with hc }

/-- ACC with a write index and a run. -/
def atAcc (pos : Index) (run : Count) : State := { State.reset with st := .acc, pos, run }

/-- TRL with a write index and a run left over. -/
def atTrl (pos : Index) (run : Count) : State := { State.reset with st := .trl, pos, run }

/-- VAL over a frame. -/
def atVal (buf : Memory) : State := { State.reset with st := .val, pos := 404#9, buf, tsIn := 412#_ }

/-- The state that an operation leads to, looked at. -/
def look {α : Type} (f : State → α) : Answer → Option α
  | .next t => some (f t)
  | .fault _ => none
  | .refused _ => none

/-! ### Single steps -/

/-- R81: hc = 2 gives 3, hc = 3 gives 4. -/
theorem test_huntEsc_counts :
    look State.hc (exec .huntEsc (atHunt 2)) = some 3#3 ∧ look State.hc (exec .huntEsc (atHunt 3)) = some 4#3 := by decide

/-- R82: hc = 4 gives 5, hc = 6 gives 7. -/
theorem test_huntSoh_counts :
    look State.hc (exec .huntSoh (atHunt 4)) = some 5#3 ∧ look State.hc (exec .huntSoh (atHunt 6)) = some 7#3 := by decide

/-- R83: hc = 5 and a byte `1b`, hc = 4 and a fifth `1b`: hc = 0, and the byte is not compared again. -/
theorem test_huntMismatch_clears :
    look State.hc (exec (.huntMismatch 0x1B#8) (atHunt 5)) = some 0#3 ∧
      look State.hc (exec (.huntMismatch 0x1B#8) (atHunt 4)) = some 0#3 := by decide

/-- R84 with its example. -/
theorem test_huntComplete_captures :
    look (fun t => (t.st, t.pos, t.run, t.hc)) (exec .huntComplete (atHunt 7)) = some (.acc, 8#9, 0#3, 0#3) ∧
      look State.buf (exec .huntComplete (atHunt 7)) =
        some [(0, 0x1B#8), (1, 0x1B#8), (2, 0x1B#8), (3, 0x1B#8), (4, 0x01#8), (5, 0x01#8), (6, 0x01#8), (7, 0x01#8)] := by
  decide

/-- R85 with its example. -/
theorem test_accEsc_stores :
    look (fun t => (t.st, t.pos, t.run, t.buf)) (exec .accEsc (atAcc 60 0)) =
      some (.acc, 61#9, 1#3, [(60, 0x1B#8)]) := by decide

/-- R85: the last payload byte. -/
theorem test_accEsc_last :
    look (fun t => (t.st, t.pos, t.run)) (exec .accEsc (atAcc 395 0)) = some (.trl, 396#9, 1#3) := by decide

/-- R86 with its example. -/
theorem test_accCollapse_rewinds :
    look (fun t => (t.st, t.pos, t.run, t.buf)) (exec .accCollapse (atAcc 107 7)) =
      some (.acc, 104#9, 0#3, [(107, 0x1B#8)]) := by decide

/-- R86: the eighth `1b` at index 395 does not end the payload. -/
theorem test_accCollapse_last :
    look (fun t => (t.st, t.pos, t.run)) (exec .accCollapse (atAcc 395 7)) = some (.acc, 392#9, 0#3) := by decide

/-- R87 with its example. -/
theorem test_accOther_last :
    look (fun t => (t.st, t.pos, t.buf)) (exec (.accOther 0x00#8) (atAcc 395 0)) =
      some (.trl, 396#9, [(395, 0x00#8)]) := by decide

/-- R87 ends a run: 95_test_vectors.md section 2.2. -/
theorem test_accOther_endsRun :
    look (fun t => (t.pos, t.run)) (exec (.accOther 0x00#8) (atAcc 50 5)) = some (51#9, 0#3) := by decide

/-- R88: `1b` in the trailer is a byte like any other. -/
theorem test_trlByte_raw :
    look (fun t => (t.st, t.pos, t.run, t.buf)) (exec (.trlByte 0x1B#8) (atTrl 396 7)) =
      some (.trl, 397#9, 7#3, [(396, 0x1B#8)]) := by decide

/-- R88 with its example. -/
theorem test_trlByte_last :
    look (fun t => (t.st, t.pos, t.buf)) (exec (.trlByte 0x00#8) (atTrl 403 0)) =
      some (.val, 404#9, [(403, 0x00#8)]) := by decide

/-- R134 with 95_test_vectors.md section 2.7. -/
theorem test_emitAccept_hunts :
    look (fun t => (t.st, t.pos, t.mValid))
      (exec .emitAccept { State.reset with st := .emit, pos := 404#9, mValid := true }) = some (.hunt, 0#9, false) := by decide

/-- R141 with its example, and hc = 3 kept (95_test_vectors.md section 2.8). -/
theorem test_srcError_fails :
    look (fun t => (t.st, t.ioError, t.pos)) (exec (.srcError .acc) (atAcc 200 0)) = some (.failed, true, 200#9) ∧
      look (fun t => (t.st, t.ioError, t.hc)) (exec (.srcError .hunt) (atHunt 3)) = some (.failed, true, 3#3) := by decide

/-- R160 with 95_test_vectors.md section 2.9. -/
theorem test_reset_hunts :
    look (fun t => (t.st, t.pos, t.ioError, t.buf))
      (exec .reset { State.reset with st := .failed, pos := 200#9, ioError := true, buf := [(0, 0x1B#8)] }) =
      some (.hunt, 0#9, false, []) ∧
    look State.st (exec .reset { State.reset with st := .reserved7 }) = some .hunt := by decide

/-! ### Whole steps on placed words -/

/-- The state after the next edge, with the word of a row placed where it is taken. -/
def stepped {α : Type} (f : State → α) (nbits w : Nat) : Option α := look f (step (State.reset.withFetchWord nbits w))

theorem test_step_huntEsc : stepped (fun t => (t.hc, t.stream, t.ticks)) 16 0x001B = some (1#3, [], []) := by decide
theorem test_step_huntSoh : stepped State.hc 16 0x0001 = some 5#3 := by decide
theorem test_step_huntMismatch : stepped (fun t => (t.hc, t.stream)) 16 0x0000 = some (0#3, []) := by decide
theorem test_step_accEsc : stepped (fun t => (t.st, t.run)) 16 0x041B = some (.acc, 1#3) := by decide
theorem test_step_accOther : stepped (fun t => (t.st, t.buf)) 16 0x0455 = some (.acc, [(0, 0x55#8)]) := by decide
theorem test_step_trlByte : stepped (fun t => (t.st, t.buf)) 16 0x0855 = some (.trl, [(0, 0x55#8)]) := by decide
theorem test_step_emitAccept : stepped (fun t => (t.st, t.mValid)) 16 0x1300 = some (.hunt, false) := by decide
theorem test_step_srcError : stepped (fun t => (t.st, t.ioError)) 16 0x0100 = some (.failed, true) := by decide
theorem test_step_reset : stepped (fun t => (t.st, t.freeCount)) 8 1 = some (.hunt, 1) := by decide

/-- R33: no transfer happens in EMIT, and the stream is held. -/
theorem test_step_holdsInEmit :
    look (fun t => (t.st, t.stream))
      (step { State.reset with st := .emit, stream := [byteResult 0#8], ticks := [Tick.offering 0#_] }) =
      some (.emit, [byteResult 0#8]) := by decide

/-- R71: a byte in EMIT is the runner's fault. -/
theorem test_runner_notEnabled :
    look State.st (Stim.run 0 { State.reset with st := .emit } [.byte 0#8]) = none := by decide

/-! ### Functions: 95_test_vectors.md sections 2.2, 2.5, 2.6 -/

/-- Runs of L bytes `1b` and a byte `00`: what they write. -/
theorem test_destuff_runs :
    [1, 3, 4, 7, 8, 9, 12, 15, 16, 17, 24].map (fun n => (destuff 0 (List.replicate n 0x1B#8 ++ [0x00#8])).length) =
      [2, 4, 5, 8, 5, 6, 9, 12, 9, 10, 13] := by decide

theorem test_crc16Sml :
    crc16Sml [] = 0x0000#16 ∧ crc16Sml [0x00#8] = 0x78F0#16 ∧ crc16Sml [0x1B#8] = 0x2A5E#16 ∧
      crc16Sml [0x31#8, 0x32#8, 0x33#8, 0x34#8, 0x35#8, 0x36#8, 0x37#8, 0x38#8, 0x39#8] = 0x6E90#16 ∧
      crc16Sml Config.startMarker = 0x236E#16 := by decide +kernel

theorem test_beU : beU [0x80#8, 0#8, 0#8, 0#8] = 2147483648 ∧ beU [0x08#8, 0xFD#8] = 2301 := by decide

theorem test_beS :
    beS [0x80#8, 0#8, 0#8, 0#8, 0#8, 0#8, 0#8, 0#8] = -9223372036854775808 ∧
      beS [0xFF#8, 0xFF#8, 0xFF#8, 0xFF#8, 0xFF#8, 0xFF#8, 0xFF#8, 0x9C#8] = -100 := by decide

/-! ### Frames, for whatever `CRC16_FN` is -/

/-- The checksum span of the test frames: zeros, with `m_power` = 150000 (95_test_vectors.md section 2.6). -/
def testSpan : List Byte :=
  List.replicate 133 0#8 ++ [0#8, 0#8, 0#8, 0#8, 0#8, 0x02#8, 0x49#8, 0xF0#8] ++ List.replicate 165 0#8

/-- The value of `CRC16_FN` that the frames carry. -/
def testCrc : BitVec 16 := Config.crc16Fn testSpan

/-- A frame with given bytes in its checksum field and at its end marker. -/
def frameWith (field marker : List Byte) : List Byte :=
  Config.startMarker ++ List.replicate 51 0#8 ++ testSpan ++ [0#8] ++ field ++ List.replicate 28 0#8 ++ marker ++
    List.replicate 3 0#8

/-- A frame's buffer. -/
def bufferWith (field marker : List Byte) : Memory := Memory.ofBytes 0 (frameWith field marker)

/-- The big-endian bytes of a 16-bit value. -/
def bytesOf (c : BitVec 16) : List Byte := [c.extractLsb' 8 8, c.extractLsb' 0 8]

theorem beU_bytesOf (c : BitVec 16) : beU (bytesOf c) = c.toNat := by
  have := c.isLt
  simp only [beU, bytesOf, List.foldl_cons, List.foldl_nil, BitVec.extractLsb'_toNat, Nat.shiftRight_eq_div_pow]
  omega

theorem testSpan_length : testSpan.length = 306 := by
  rw [testSpan, List.length_append, List.length_append, List.length_replicate, List.length_replicate]
  rfl

theorem frameWith_length {field marker : List Byte} (hf : field.length = 2) (hm : marker.length = 5) :
    (frameWith field marker).length = 404 := by
  simp [frameWith, testSpan_length, hf, hm]

section Frames

variable {field marker : List Byte}

theorem bufferWith_span : (bufferWith field marker).holdsAt 59 testSpan := by
  have h := Memory.holdsAt_ofBytes 0 (frameWith field marker)
  unfold frameWith at h
  rw [List.append_assoc, List.append_assoc, List.append_assoc, List.append_assoc] at h
  have := Memory.holdsAt_piece h
  simpa [bufferWith, frameWith] using this

theorem bufferWith_field : (bufferWith field marker).holdsAt 366 field := by
  have h := Memory.holdsAt_ofBytes 0 (frameWith field marker)
  unfold frameWith at h
  rw [List.append_assoc, List.append_assoc] at h
  have := Memory.holdsAt_piece h
  simpa [bufferWith, frameWith, testSpan_length] using this

theorem bufferWith_marker (hf : field.length = 2) : (bufferWith field marker).holdsAt 396 marker := by
  have h := Memory.holdsAt_ofBytes 0 (frameWith field marker)
  unfold frameWith at h
  have := Memory.holdsAt_piece h
  simpa [bufferWith, frameWith, testSpan_length, hf] using this

theorem getBytes_of_holdsAt {m : Memory} {i : Nat} {bs : List Byte} (h : m.holdsAt i bs)
    (hi : i + bs.length ≤ Config.frameLen) : m.getBytes i bs.length = .ok bs :=
  Memory.getBytes_eq_ok.2 ⟨rfl, fun k hk => ⟨by omega, h k hk⟩⟩

theorem emOk_bufferWith (hf : field.length = 2) (hm : marker.length = 5) :
    emOk (bufferWith field marker) = .ok (decide (marker = Config.endMarker)) :=
  emOk_eq_ok.2 ⟨marker, by
    have := getBytes_of_holdsAt (bufferWith_marker (marker := marker) hf) (by rw [hm]; decide)
    rwa [hm] at this, rfl⟩

theorem crcOk_bufferWith (hf : field.length = 2) :
    crcOk (bufferWith field marker) = .ok (decide (testCrc.toNat = beU field)) :=
  crcOk_eq_ok.2 ⟨testSpan, field, by
    have := getBytes_of_holdsAt (bufferWith_span (field := field) (marker := marker))
      (by rw [testSpan_length]; decide)
    rwa [testSpan_length] at this, by
    have := getBytes_of_holdsAt (bufferWith_field (field := field) (marker := marker)) (by rw [hf]; decide)
    rwa [hf] at this, rfl⟩

end Frames

/-- A frame that is valid. -/
@[irreducible] def goodFrame : Memory := bufferWith (bytesOf testCrc) Config.endMarker

/-- A frame whose end marker is wrong. -/
@[irreducible] def badMarkerFrame : Memory := bufferWith (bytesOf testCrc) (List.replicate 5 0x1B#8)

/-- A frame whose checksum alone is wrong. -/
@[irreducible] def badCrcFrame : Memory := bufferWith (bytesOf (testCrc + 1)) Config.endMarker

theorem emOk_goodFrame : emOk goodFrame = .ok true := by rw [goodFrame]; exact emOk_bufferWith rfl rfl

theorem crcOk_goodFrame : crcOk goodFrame = .ok true := by
  rw [goodFrame, crcOk_bufferWith rfl, beU_bytesOf, decide_eq_true rfl]

theorem frameValid_goodFrame : frameValid goodFrame = .ok true :=
  frameValid_eq_ok.2 ⟨_, _, emOk_goodFrame, crcOk_goodFrame, rfl⟩

theorem emOk_badMarkerFrame : emOk badMarkerFrame = .ok false := by rw [badMarkerFrame]; exact emOk_bufferWith rfl rfl

theorem crcOk_badMarkerFrame : crcOk badMarkerFrame = .ok true := by
  rw [badMarkerFrame, crcOk_bufferWith rfl, beU_bytesOf, decide_eq_true rfl]

theorem frameValid_badMarkerFrame : frameValid badMarkerFrame = .ok false :=
  frameValid_eq_ok.2 ⟨_, _, emOk_badMarkerFrame, crcOk_badMarkerFrame, rfl⟩

theorem emOk_badCrcFrame : emOk badCrcFrame = .ok true := by rw [badCrcFrame]; exact emOk_bufferWith rfl rfl

theorem crcOk_badCrcFrame : crcOk badCrcFrame = .ok false := by
  have h : ∀ c : BitVec 16, c.toNat ≠ (c + 1).toNat := fun c h => by bv_omega
  rw [badCrcFrame, crcOk_bufferWith rfl, beU_bytesOf, decide_eq_false (h _)]

theorem frameValid_badCrcFrame : frameValid badCrcFrame = .ok false :=
  frameValid_eq_ok.2 ⟨_, _, emOk_badCrcFrame, crcOk_badCrcFrame, rfl⟩

/-- The bytes of a field in the good frame. -/
theorem raw_goodFrame (f : FrameField) (bs : List Byte) (hl : bs.length = f.row.width)
    (hs : (testSpan.drop (f.row.offset - 59)).take f.row.width = bs) : f.raw goodFrame = .ok (f.ofBytes bs) := by
  have hr : 59 ≤ f.row.offset ∧ f.row.offset + f.row.width ≤ 365 := by cases f <;> decide
  refine FrameField.raw_eq_ok.2 ⟨bs, Memory.getBytes_eq_ok.2 ⟨hl, fun k hk => ⟨?_, ?_⟩⟩, rfl⟩
  · show f.row.offset + k < 404
    omega
  · have h := bufferWith_span (field := bytesOf testCrc) (marker := Config.endMarker) (f.row.offset - 59 + k)
      (by rw [testSpan_length]; omega)
    rw [show 59 + (f.row.offset - 59 + k) = f.row.offset + k by omega] at h
    rw [goodFrame, h, ← hs, List.getElem?_take_of_lt hk, List.getElem?_drop]

/-- The record of the good frame. -/
def goodRecord (ts : BitVec Config.tsW) : Measurement :=
  { Measurement.zero with power := 150000#64, timestamp := ts }

theorem decodeFrame_goodFrame (ts : BitVec Config.tsW) : decodeFrame goodFrame ts = .ok (goodRecord ts) :=
  decodeFrame_eq_ok.2 ⟨fun f => if f = .power then 150000 else 0, fun f => by
    cases f
    case power => exact raw_goodFrame .power [0#8, 0#8, 0#8, 0#8, 0#8, 0x02#8, 0x49#8, 0xF0#8] rfl (by decide +kernel)
    case voltageL1 => exact raw_goodFrame .voltageL1 [0#8, 0#8] rfl (by decide +kernel)
    case voltageL2 => exact raw_goodFrame .voltageL2 [0#8, 0#8] rfl (by decide +kernel)
    case voltageL3 => exact raw_goodFrame .voltageL3 [0#8, 0#8] rfl (by decide +kernel)
    case secondsIndex => exact raw_goodFrame .secondsIndex [0#8, 0#8, 0#8, 0#8] rfl (by decide +kernel)
    case energyCount => exact raw_goodFrame .energyCount (List.replicate 8 0#8) rfl (by decide +kernel)
    case powerL1 => exact raw_goodFrame .powerL1 (List.replicate 8 0#8) rfl (by decide +kernel)
    case powerL2 => exact raw_goodFrame .powerL2 (List.replicate 8 0#8) rfl (by decide +kernel)
    case powerL3 => exact raw_goodFrame .powerL3 (List.replicate 8 0#8) rfl (by decide +kernel), rfl⟩

/-- R105 with its example: `m_power` = 150000, and `ts_in` is the timestamp. -/
theorem test_validatePass_latches :
    exec .validatePass (atVal goodFrame) =
      .next { atVal goodFrame with st := .emit, mValid := true, mRec := goodRecord 412#_ } := by
  rw [exec, execValidatePass]
  exact whenFrame_eq_next.2 ⟨rfl, frameValid_goodFrame, orFault_eq_next.2 ⟨_, decodeFrame_goodFrame _, rfl⟩⟩

/-- R106 with its example. -/
theorem test_validateFail_marker :
    exec .validateFail (atVal badMarkerFrame) =
      .next { atVal badMarkerFrame with st := .hunt, pos := 0#9, diagValid := true, diagReason := 0b01#2 } := by
  rw [exec, execValidateFail]
  exact whenFrame_eq_next.2 ⟨rfl, frameValid_badMarkerFrame, orFault_eq_next.2
    ⟨.endMarkerMismatch, corruptionOf_eq_ok.2 ⟨_, emOk_badMarkerFrame, rfl⟩, rfl⟩⟩

/-- R106: the checksum alone is wrong. -/
theorem test_validateFail_crc :
    exec .validateFail (atVal badCrcFrame) =
      .next { atVal badCrcFrame with st := .hunt, pos := 0#9, diagValid := true, diagReason := 0b10#2 } := by
  rw [exec, execValidateFail]
  exact whenFrame_eq_next.2 ⟨rfl, frameValid_badCrcFrame, orFault_eq_next.2
    ⟨.crcMismatch, corruptionOf_eq_ok.2 ⟨_, emOk_badCrcFrame, rfl⟩, rfl⟩⟩

/-! ### States that meet the invariant -/

theorem reset_inv : State.reset.inv := by
  refine ⟨by decide, ?_, by decide, by decide, by decide, by decide⟩
  refine ⟨by decide, by decide, by decide, by decide, by decide⟩

/-- ACC with a run of 7 right behind the start marker. -/
def collapsing : State :=
  { atAcc 15 7 with buf := Memory.ofBytes 0 (Config.startMarker ++ List.replicate 7 Config.esc) }

theorem collapsing_inv : collapsing.inv := by
  refine ⟨by decide, ?_, by decide, by decide, by decide, by decide⟩
  refine ⟨by decide, fun _ => ⟨by decide, by decide, by decide, by decide, by decide, by decide⟩, by decide, by decide,
    by decide⟩

theorem bufferWith_inv {field marker : List Byte} (hf : field.length = 2) (hm : marker.length = 5) :
    (bufferWith field marker).wf ∧ (bufferWith field marker).writtenIn 0 404 ∧
      (bufferWith field marker).holdsAt 0 Config.startMarker := by
  have hl := frameWith_length hf hm
  have h := Memory.holdsAt_ofBytes 0 (frameWith field marker)
  refine ⟨Memory.wf_ofBytes (by rw [hl]), fun i hi _ => ?_, fun k hk => ?_⟩
  · have hi' := h i (by omega)
    rw [Nat.zero_add] at hi'
    rw [bufferWith, hi', List.getElem?_eq_getElem (by rw [hl]; exact hi)]
    rfl
  · have hk' : k < 8 := hk
    rw [bufferWith, h k (by rw [hl]; omega)]
    unfold frameWith
    repeat rw [List.append_assoc]
    exact List.getElem?_append_left hk

/-- VAL meets the invariant over a written frame. -/
theorem atVal_inv {m : Memory} (hm : m.wf ∧ m.writtenIn 0 404 ∧ m.holdsAt 0 Config.startMarker) (ticks : List Tick) :
    ({ atVal m with ticks } : State).inv := by
  refine ⟨hm.1, ⟨?_, ?_, ?_, fun _ => ⟨rfl, rfl, hm.2.1, hm.2.2⟩, rfl⟩, ?_, ?_, ?_, ?_⟩ <;>
    simp [atVal, State.reset]

theorem goodFrame_inv : goodFrame.wf ∧ goodFrame.writtenIn 0 404 ∧ goodFrame.holdsAt 0 Config.startMarker := by
  rw [goodFrame]; exact bufferWith_inv rfl rfl

theorem badCrcFrame_inv : badCrcFrame.wf ∧ badCrcFrame.writtenIn 0 404 ∧ badCrcFrame.holdsAt 0 Config.startMarker := by
  rw [badCrcFrame]; exact bufferWith_inv rfl rfl

/-! ### The validation edge -/

/-- The edge at which a validation finishes. -/
def finishing : Tick := ⟨false, false, false, true, 412#_⟩

/-- VAL over a frame, with that edge to come. -/
def validating (m : Memory) : State := { atVal m with ticks := [finishing] }

theorem nextOp_validating {m : Memory} {v : Bool} (hv : frameValid m = .ok v) :
    (validating m).nextOp = some (if v then .validatePass else .validateFail) := by
  have hs : select (validating m) (.ev13 (mkEvent .val .internal 0#8)) =
      .next (if v then .validatePass else .validateFail) :=
    select_eq_next.2 ⟨⟨0#3, 0#3, v⟩, by
      show (frameValid m).map _ = _
      rw [hv]
      rfl, by cases v <;> rfl⟩
  show (match select (validating m) (.ev13 (mkEvent .val .internal 0#8)) with
    | .next i => some i
    | .fault _ => none
    | .refused _ => none) = _
  rw [hs]

theorem step_validating {m : Memory} {v : Bool} (hv : frameValid m = .ok v) :
    step (validating m) = exec (if v then .validatePass else .validateFail) (atVal m) := by
  have hs : select (validating m) (.ev13 (mkEvent .val .internal 0#8)) =
      .next (if v then .validatePass else .validateFail) :=
    select_eq_next.2 ⟨⟨0#3, 0#3, v⟩, by
      show (frameValid m).map _ = _
      rw [hv]
      rfl, by cases v <;> rfl⟩
  show (match select (validating m) (.ev13 (mkEvent .val .internal 0#8)) with
    | .next i => exec i ((validating m).advance finishing)
    | .fault f => .fault f
    | .refused r => .refused r) = _
  rw [hs]
  rfl

/-! ### Witnesses: every statement with hypotheses has states and operands that meet them -/

theorem witness_DecodeOfEncodeIsTheOperation :
    ∀ p ∈ ([(⟨0, 0, false⟩, .huntEsc), (⟨3, 0, false⟩, .huntEsc), (⟨4, 0, false⟩, .huntSoh), (⟨6, 0, false⟩, .huntSoh),
        (⟨7, 0, false⟩, .huntComplete), (⟨4, 0, false⟩, .huntMismatch 0x1B#8), (⟨0, 0, false⟩, .huntMismatch 0x01#8),
        (⟨0, 0, false⟩, .accEsc), (⟨0, 6, false⟩, .accEsc), (⟨0, 7, false⟩, .accCollapse), (⟨0, 7, false⟩, .accOther 0#8),
        (⟨0, 7, false⟩, .trlByte 0x1B#8), (⟨0, 0, true⟩, .validatePass), (⟨0, 0, false⟩, .validateFail),
        (⟨0, 0, false⟩, .emitAccept), (⟨0, 0, false⟩, .srcError .hunt), (⟨0, 0, false⟩, .srcError .trl),
        (⟨0, 0, false⟩, .reset)] : List (Guards × Instr)),
      p.2.wellFormed = true ∧ p.2.guardHolds p.1 = true := by decide

theorem witness_EnabledEventHasExactlyOneOperation :
    (evKind 0x001B#13 = .byte ∧ (evState 0x001B#13).reads = true) ∧
      (evData 0x0900#13 = 0#8 ∧ evKind 0x0900#13 = .error ∧ (evState 0x0900#13).reads = true) ∧
      (evData 0x0E00#13 = 0#8 ∧ evKind 0x0E00#13 = .internal ∧ evState 0x0E00#13 = .val) ∧
      (evData 0x1300#13 = 0#8 ∧ evKind 0x1300#13 = .accept ∧ evState 0x1300#13 = .emit) := by decide

/-- The hypotheses of `EventNotEnabledIsRejected`. -/
abbrev NotOfTheTable (ev : EventWord) : Prop :=
  ¬((evKind ev = .byte ∨ evKind ev = .error) ∧ (evState ev).reads = true) ∧
    ¬(evKind ev = .internal ∧ evState ev = .val) ∧ ¬(evKind ev = .accept ∧ evState ev = .emit)

theorem witness_EventNotEnabledIsRejected :
    NotOfTheTable 0x0200#13 ∧ NotOfTheTable 0x0C00#13 ∧ NotOfTheTable 0x0F00#13 ∧ NotOfTheTable 0x1000#13 ∧
      NotOfTheTable 0x1400#13 ∧ NotOfTheTable 0x1800#13 ∧ NotOfTheTable 0x1FFF#13 := by decide

theorem witness_HuntEscCountsTheMarkerByte :
    ((atHunt 0).st = .hunt ∧ (atHunt 0).hc.toNat < 4) ∧ (atHunt 3).st = .hunt ∧ (atHunt 3).hc.toNat < 4 := by decide

theorem witness_HuntSohCountsTheMarkerByte :
    ((atHunt 4).st = .hunt ∧ 4 ≤ (atHunt 4).hc.toNat ∧ (atHunt 4).hc.toNat < 7) ∧
      (atHunt 6).st = .hunt ∧ 4 ≤ (atHunt 6).hc.toNat ∧ (atHunt 6).hc.toNat < 7 := by decide

theorem witness_HuntMismatchClearsTheCounter :
    ∀ p ∈ ([(atHunt 3, 0x01#8), (atHunt 4, 0x1B#8), (atHunt 7, 0xFF#8)] : List (State × Byte)),
      p.1.st = .hunt ∧ p.2 ≠ (if p.1.hc.toNat < 4 then 0x1B#8 else 0x01#8) := by decide

theorem witness_HuntCompleteCapturesTheMarker : (atHunt 7).st = .hunt ∧ (atHunt 7).hc.toNat = 7 := by decide

theorem witness_AccEscStoresAndCounts :
    ∀ s ∈ [atAcc 8 0, atAcc 395 6, atAcc 403 6], s.st = .acc ∧ s.pos.toNat < 404 ∧ s.run.toNat < 7 := by decide

theorem witness_AccCollapseRewindsByFour :
    (∀ s ∈ [atAcc 3 7, atAcc 395 7], s.st = .acc ∧ s.pos.toNat < 404 ∧ s.run.toNat = 7 ∧ 3 ≤ s.pos.toNat) ∧
      collapsing.st = .acc ∧ collapsing.pos.toNat < 404 ∧ collapsing.run.toNat = 7 ∧ collapsing.inv :=
  ⟨by decide, rfl, by decide, rfl, collapsing_inv⟩

theorem witness_AccOtherStoresAndEndsTheRun :
    ∀ p ∈ ([(atAcc 8 0, 0x01#8), (atAcc 395 7, 0x1A#8)] : List (State × Byte)),
      p.1.st = .acc ∧ p.1.pos.toNat < 404 ∧ p.2 ≠ 0x1B#8 := by decide

theorem witness_TrlByteStoresRaw :
    (∀ s ∈ [atTrl 396 7, atTrl 403 0], s.st = .trl ∧ s.pos.toNat < 404) ∧
      ∃ t, exec (.trlByte 0#8) (atTrl 403 0) = .next t ∧ t.st = .val := ⟨by decide, _, rfl, rfl⟩

theorem witness_ValidatePassLatchesTheMeasurement :
    (atVal goodFrame).st = .val ∧ frameValid (atVal goodFrame).buf = .ok true := ⟨rfl, frameValid_goodFrame⟩

theorem witness_ValidateFailRestartsTheHunt :
    ((atVal badMarkerFrame).st = .val ∧ frameValid (atVal badMarkerFrame).buf = .ok false) ∧
      (atVal badCrcFrame).st = .val ∧ frameValid (atVal badCrcFrame).buf = .ok false :=
  ⟨⟨rfl, frameValid_badMarkerFrame⟩, rfl, frameValid_badCrcFrame⟩

/-- EMIT with a measurement held. -/
def atEmit : State := { State.reset with st := .emit, pos := 404#9, mValid := true, mRec := goodRecord 412#_ }

/-- FAILED. -/
def atFailed : State := { State.reset with st := .failed, ioError := true }

theorem witness_EmitAcceptReturnsToTheHunt : atEmit.st = .emit := rfl

theorem witness_SrcErrorStopsTheBlock :
    ∀ s ∈ [atHunt 3, atAcc 18 0, atTrl 400 0], s.st = .hunt ∨ s.st = .acc ∨ s.st = .trl := by decide

theorem witness_StoringOperationsWriteOneByte :
    (∃ t, exec .accEsc (atAcc 395 6) = .next t) ∧ (∃ t, exec .accCollapse (atAcc 395 7) = .next t) ∧
      (∃ t, exec (.accOther 0#8) (atAcc 8 0) = .next t) ∧ ∃ t, exec (.trlByte 0x1B#8) (atTrl 403 0) = .next t :=
  ⟨⟨_, rfl⟩, ⟨_, rfl⟩, ⟨_, rfl⟩, _, rfl⟩

theorem witness_OtherOperationsLeaveTheFrame :
    (∃ t, exec .huntEsc (atHunt 3) = .next t) ∧ (∃ t, exec .huntSoh (atHunt 6) = .next t) ∧
      (∃ t, exec (.huntMismatch 0#8) (atHunt 7) = .next t) ∧
      (∃ t, exec .validatePass (atVal goodFrame) = .next t) ∧ (∃ t, exec .validateFail (atVal badCrcFrame) = .next t) ∧
      (∃ t, exec .emitAccept atEmit = .next t) ∧ ∃ t, exec (.srcError .trl) (atTrl 400 0) = .next t :=
  ⟨⟨_, rfl⟩, ⟨_, rfl⟩, ⟨_, rfl⟩, ⟨_, test_validatePass_latches⟩, ⟨_, test_validateFail_crc⟩, ⟨_, rfl⟩, _, rfl⟩

theorem witness_RecordChangesOnlyByValidatePass :
    ∃ t, exec .emitAccept atEmit = .next t ∧ Instr.emitAccept ≠ .validatePass ∧ Instr.emitAccept ≠ .reset :=
  ⟨_, rfl, by decide, by decide⟩

theorem witness_FlagsChangeOnlyByTheirOperations :
    (∃ t, exec .validatePass (atVal goodFrame) = .next t ∧ t.mValid ≠ (atVal goodFrame).mValid) ∧
      (∃ t, exec .emitAccept atEmit = .next t ∧ t.mValid ≠ atEmit.mValid) ∧
      (∃ t, exec .reset atEmit = .next t ∧ t.mValid ≠ atEmit.mValid) ∧
      (∃ t, exec (.srcError .hunt) (atHunt 3) = .next t ∧ t.ioError ≠ (atHunt 3).ioError) ∧
      ∃ t, exec .reset atFailed = .next t ∧ t.ioError ≠ atFailed.ioError :=
  ⟨⟨_, test_validatePass_latches, Bool.noConfusion⟩, ⟨_, rfl, by decide⟩, ⟨_, rfl, by decide⟩, ⟨_, rfl, by decide⟩, _, rfl,
    by decide⟩

theorem witness_OperationsLeaveTheEnvironment :
    ∃ t, exec .huntEsc ((atHunt 0).feeding [0x1B#8]) = .next t := ⟨_, rfl⟩

theorem witness_CountersKeptByOtherOperations :
    (∃ t, exec .accEsc (atAcc 8 6) = .next t) ∧ (∃ t, exec .accCollapse (atAcc 15 7) = .next t) ∧
      (∃ t, exec (.accOther 0#8) (atAcc 395 0) = .next t) ∧ (∃ t, exec (.trlByte 0#8) (atTrl 403 5) = .next t) ∧
      (∃ t, exec .validatePass (atVal goodFrame) = .next t) ∧ (∃ t, exec (.srcError .acc) (atAcc 18 3) = .next t) ∧
      (∃ t, exec .huntEsc (atHunt 3) = .next t) ∧ (∃ t, exec .huntSoh (atHunt 4) = .next t) ∧
      ∃ t, exec (.huntMismatch 0#8) (atHunt 7) = .next t :=
  ⟨⟨_, rfl⟩, ⟨_, rfl⟩, ⟨_, rfl⟩, ⟨_, rfl⟩, ⟨_, test_validatePass_latches⟩, ⟨_, rfl⟩, ⟨_, rfl⟩, ⟨_, rfl⟩, _, rfl⟩

/-- A byte offered in HUNT, at the next edge. -/
def offered (b : Byte) : State := State.reset.feeding [b]

theorem witness_StepRunsTheDecodedOperation :
    (offered 0x1B#8).ticks = Tick.offering 0#_ :: [] ∧
      fetch (offered 0x1B#8) (Tick.offering 0#_) = some (.ev13 0x001B#13) ∧
      guardsAt (offered 0x1B#8) (.ev13 0x001B#13) = .ok ⟨0#3, 0#3, false⟩ ∧
      decode ⟨0#3, 0#3, false⟩ (.ev13 0x001B#13) = .ok .huntEsc := ⟨rfl, rfl, rfl, rfl⟩

theorem witness_IdleEdgeHoldsAllState :
    ∀ s ∈ [{ State.reset with ticks := [Tick.quiet] }, { atFailed with ticks := [Tick.quiet] }],
      s.ticks = Tick.quiet :: [] ∧ fetch s Tick.quiet = none ∧ s.st.isReserved = false := by decide

theorem witness_ResetOverridesEveryEvent :
    ({ atEmit with ticks := [⟨true, true, true, true, 0#_⟩], stream := [byteResult 0#8] } : State).ticks =
      ⟨true, true, true, true, 0#_⟩ :: [] := rfl

theorem witness_NothingSurvivesAReset :
    State.reset.tsIn = atFailed.tsIn ∧ State.reset.stream = atFailed.stream ∧ State.reset.ticks = atFailed.ticks ∧
      State.reset.freeCount = atFailed.freeCount ∧ State.reset ≠ atFailed := by decide

theorem witness_StreamIsConsumedInOrder :
    (∃ s', step (offered 0x1B#8) = .next s' ∧ (offered 0x1B#8).transfers (Tick.offering 0#_) = true) ∧
      ∃ s', step { atEmit with ticks := [Tick.offering 0#_], stream := [byteResult 0#8] } = .next s' :=
  ⟨⟨_, rfl, rfl⟩, _, rfl⟩

theorem witness_MeasurementIsHeldUntilAccepted :
    (∀ k ∈ (atEmit.feeding [0x1B#8, 0x1B#8]).ticks, k.rst = false ∧ k.mReady = false) ∧
      ∃ s', run 2 (atEmit.feeding [0x1B#8, 0x1B#8]) = .next s' := ⟨by decide, _, rfl⟩

theorem witness_FailedIsLeftOnlyByReset :
    (∀ k ∈ (atFailed.feeding [0x1B#8, 0x1B#8]).ticks, k.rst = false) ∧
      ∃ s', run 2 (atFailed.feeding [0x1B#8, 0x1B#8]) = .next s' := ⟨by decide, _, rfl⟩

theorem witness_OnlyASourceFailureIsFatal :
    ∃ s', step { atTrl 400 0 with stream := [failResult 0#8], ticks := [Tick.offering 0#_] } = .next s' ∧
      (atTrl 400 0).st ≠ .failed ∧ s'.st = .failed := ⟨_, rfl, by decide, rfl⟩

theorem witness_FrameCorruptionIsSilent :
    (∃ t, exec .validateFail (atVal badMarkerFrame) = .next t) ∧ ∃ t, exec .validateFail (atVal badCrcFrame) = .next t :=
  ⟨⟨_, test_validateFail_marker⟩, _, test_validateFail_crc⟩

theorem witness_DiagnosticPulseMarksValidateFail :
    (∃ s', (validating badCrcFrame).ticks ≠ [] ∧ step (validating badCrcFrame) = .next s' ∧ s'.diagValid = true) ∧
      ∃ s', (offered 0#8).ticks ≠ [] ∧ step (offered 0#8) = .next s' ∧ s'.diagValid = false :=
  ⟨⟨_, List.cons_ne_nil _ _, (step_validating frameValid_badCrcFrame).trans test_validateFail_crc, rfl⟩, _,
    List.cons_ne_nil _ _, rfl, rfl⟩

theorem witness_ReservedStateIsAFault :
    ({ State.reset with st := .reserved6, ticks := [Tick.quiet] } : State).st = .reserved6 ∧
      ({ State.reset with st := .reserved7, ticks := [Tick.quiet] } : State).st = .reserved7 ∧
      Instr.huntEsc ≠ .reset ∧ Tick.quiet.rst = false := by decide

theorem witness_OperationNotSelectedIsRefused :
    (encode .accEsc = .ev13 0x041B#13 ∧ (atHunt 0).st.isReserved = false ∧
        guardsAt (atHunt 0) (.ev13 0x041B#13) = .ok ⟨0#3, 0#3, false⟩ ∧ (atHunt 0).st ≠ evState 0x041B#13) ∧
      (encode (.accOther 0x1B#8) = .ev13 0x041B#13 ∧ guardsAt (atAcc 8 0) (.ev13 0x041B#13) = .ok ⟨0#3, 0#3, false⟩ ∧
        (Instr.accOther 0x1B#8).wellFormed ≠ true) ∧
      (encode .huntEsc = .ev13 0x001B#13 ∧ guardsAt (atHunt 4) (.ev13 0x001B#13) = .ok ⟨4#3, 0#3, false⟩ ∧
        Instr.huntEsc.guardHolds ⟨4#3, 0#3, false⟩ ≠ true) :=
  ⟨⟨rfl, rfl, rfl, by decide⟩, ⟨rfl, rfl, by decide⟩, rfl, rfl, by decide⟩

theorem witness_StoreOutsideTheBufferFaults :
    (∀ s ∈ [atAcc 404 0, atAcc 511 6], 404 ≤ s.pos.toNat ∧ s.st = .acc ∧ s.run.toNat < 7) ∧
      (404 ≤ (atAcc 404 7).pos.toNat ∧ (atAcc 404 7).st = .acc ∧ (atAcc 404 7).run.toNat = 7) ∧
      (0x01#8 : Byte) ≠ 0x1B#8 ∧ 404 ≤ (atTrl 511 0).pos.toNat ∧ (atTrl 511 0).st = .trl := by decide

theorem witness_ValidationOfUnwrittenBytesFaults :
    ∀ a ∈ [59, 364, 366, 367, 396, 400], (atVal []).st = .val ∧
      ((59 ≤ a ∧ a < 365) ∨ (366 ≤ a ∧ a < 368) ∨ (396 ≤ a ∧ a < 401)) ∧ (atVal []).buf.read? a = none := by decide

theorem witness_EndMarkerCheckComparesFiveBytes :
    (Memory.ofBytes 396 Config.endMarker).read? 396 = some 0x1B#8 ∧
      (Memory.ofBytes 396 Config.endMarker).read? 397 = some 0x1B#8 ∧
      (Memory.ofBytes 396 Config.endMarker).read? 398 = some 0x1B#8 ∧
      (Memory.ofBytes 396 Config.endMarker).read? 399 = some 0x1B#8 ∧
      (Memory.ofBytes 396 Config.endMarker).read? 400 = some 0x1A#8 := by decide

theorem witness_ChecksumCheckComparesBigEndian :
    testSpan.length = 306 ∧ goodFrame.holdsAt 59 testSpan ∧ goodFrame.read? 366 = some (testCrc.extractLsb' 8 8) ∧
      goodFrame.read? 367 = some (testCrc.extractLsb' 0 8) := by
  rw [goodFrame]
  exact ⟨testSpan_length, bufferWith_span, bufferWith_field (field := bytesOf testCrc) 0 (by decide),
    bufferWith_field (field := bytesOf testCrc) 1 (by decide)⟩

theorem witness_FrameValidReadsOnlyItsBytes :
    (emOk goodFrame = .ok true ∧ crcOk goodFrame = .ok true) ∧
      ∀ a, (59 ≤ a ∧ a < 365) ∨ (366 ≤ a ∧ a < 368) ∨ (396 ≤ a ∧ a < 401) →
        goodFrame.read? a = ((goodFrame.write 58 0x55#8).write 403 0x55#8).read? a :=
  ⟨⟨emOk_goodFrame, crcOk_goodFrame⟩, fun a ha => by
    rw [Memory.read?_write_of_ne _ (by omega), Memory.read?_write_of_ne _ (by omega)]⟩

theorem witness_EndMarkerReasonWhenBothFail :
    (atVal badMarkerFrame).st = .val ∧ emOk (atVal badMarkerFrame).buf = .ok false ∧
      crcOk (atVal badMarkerFrame).buf = .ok true := ⟨rfl, emOk_badMarkerFrame, crcOk_badMarkerFrame⟩

theorem witness_DecodedPortsHoldTheFieldIntegers : decodeFrame goodFrame 412#_ = .ok (goodRecord 412#_) :=
  decodeFrame_goodFrame _

theorem witness_DecodeIsTotalOnJudgedFrames :
    frameValid goodFrame = .ok true ∧ frameValid badCrcFrame = .ok false := ⟨frameValid_goodFrame, frameValid_badCrcFrame⟩

theorem witness_DecodeReadsOnlyTheFieldBytes :
    ∀ (f : FrameField) (k : Nat), k < f.row.width →
      goodFrame.read? (f.row.offset + k) = (goodFrame.write 200 0x01#8).read? (f.row.offset + k) := fun f k hk => by
  have : f.row.offset + k ≠ 200 := by
    revert hk
    cases f <;> simp only [FrameField.row] <;> omega
  rw [Memory.read?_write_of_ne _ this]

theorem witness_EveryStepKeepsTheInvariant :
    (∃ s', State.reset.inv ∧ step State.reset = .next s') ∧
      ∃ s', (validating goodFrame).inv ∧ step (validating goodFrame) = .next s' :=
  ⟨⟨_, reset_inv, rfl⟩, _, atVal_inv goodFrame_inv _,
    (step_validating frameValid_goodFrame).trans test_validatePass_latches⟩

theorem witness_NoStepStopsUnderTheInvariant : State.reset.inv ∧ collapsing.inv ∧ (validating goodFrame).inv :=
  ⟨reset_inv, collapsing_inv, atVal_inv goodFrame_inv _⟩

theorem witness_ValidationIsAlwaysEnabled :
    ((validating goodFrame).inv ∧ (validating goodFrame).st = .val ∧ (validating goodFrame).ticks = finishing :: []) ∧
      ((validating badCrcFrame).inv ∧ (validating badCrcFrame).st = .val ∧ (validating badCrcFrame).ticks = finishing :: []) ∧
      finishing.rst = false ∧ finishing.valDone = true :=
  ⟨⟨atVal_inv goodFrame_inv _, rfl, rfl⟩, ⟨atVal_inv badCrcFrame_inv _, rfl, rfl⟩, rfl, rfl⟩

theorem witness_MarkerInACleanHuntIsCaptured : State.reset.st = .hunt ∧ State.reset.hc = 0#3 := by decide

theorem witness_MarkerAfterAPartialMatchIsMissed :
    ∀ hc ∈ [1#3, 2#3, 3#3, 4#3, 5#3, 6#3, 7#3], (atHunt hc).st = .hunt ∧ (atHunt hc).hc ≠ 0#3 := by decide

theorem witness_HuntCounterCountsMatchedBytes :
    ∃ t, State.reset.st = .hunt ∧ State.reset.hc = 0#3 ∧
      run 2 (State.reset.feeding [0x00#8, 0x1B#8]) = .next t ∧
      ∀ (n : Nat) (u : State), n ≤ 2 → run n (State.reset.feeding [0x00#8, 0x1B#8]) = .next u → u.st = .hunt := by
  refine ⟨_, rfl, rfl, rfl, fun n u hn h => ?_⟩
  match n, hn with
  | 0, _ => cases h; rfl
  | 1, _ => cases h; rfl
  | 2, _ => cases h; rfl

theorem witness_AccumulationDestuffsByMaximalRuns :
    ((atAcc 8 0).st = .acc ∧ (atAcc 8 0).run = 0#3 ∧
        ∀ n, n ≤ 9 → (atAcc 8 0).pos.toNat + (destuff 0 ((List.replicate 8 0x1B#8 ++ [0#8]).take n)).length < 396) ∧
      (atAcc 388 0).st = .acc ∧ (atAcc 388 0).run = 0#3 ∧
        ∀ n, n ≤ 8 → (atAcc 388 0).pos.toNat + (destuff 0 ((List.replicate 8 0x1B#8).take n)).length < 396 := by
  refine ⟨⟨rfl, rfl, fun n hn => ?_⟩, rfl, rfl, fun n hn => ?_⟩
  · exact (by decide : ∀ n < 10,
      (atAcc 8 0).pos.toNat + (destuff 0 ((List.replicate 8 0x1B#8 ++ [0#8]).take n)).length < 396) n (by omega)
  · exact (by decide : ∀ n < 9,
      (atAcc 388 0).pos.toNat + (destuff 0 ((List.replicate 8 0x1B#8).take n)).length < 396) n (by omega)

theorem witness_TrailerIsStoredRaw :
    (atTrl 396 7).st = .trl ∧ (atTrl 396 7).pos = 396#9 ∧ (List.replicate 8 (0x1B#8 : Byte)).length = 8 := by decide

theorem destuff_zeros (n : Nat) : destuff 0 (List.replicate n 0#8) = List.replicate n 0#8 := by
  induction n with
  | zero => rfl
  | succ n ih =>
    rw [List.replicate_succ, destuff, if_neg (by decide), ih]
    rfl

/-- A payload without a collapse. -/
theorem witness_CandidateFrameOfTheRawStream :
    State.reset.st = .hunt ∧ State.reset.hc = 0#3 ∧ (destuff 0 (List.replicate 388 0#8)).length = 388 ∧
      (∀ n, n < (List.replicate 388 (0#8 : Byte)).length →
        (destuff 0 ((List.replicate 388 0#8).take n)).length < 388) ∧
      (List.replicate 8 (0#8 : Byte)).length = 8 := by
  refine ⟨rfl, rfl, by rw [destuff_zeros, List.length_replicate], fun n hn => ?_, rfl⟩
  rw [List.length_replicate] at hn
  rw [List.take_replicate, destuff_zeros, List.length_replicate]
  omega

theorem destuff_zeros_append (n : Nat) (bs : List Byte) :
    destuff 0 (List.replicate n 0#8 ++ bs) = List.replicate n 0#8 ++ destuff 0 bs := by
  induction n with
  | zero => rfl
  | succ n ih =>
    rw [List.replicate_succ, List.cons_append, destuff, if_neg (by decide), ih]
    rfl

/-- A payload that ends inside a run of 12 bytes `1b`, with one collapse (R68, R69): 392 raw bytes. -/
def runAtTheEnd : List Byte := List.replicate 380 0#8 ++ List.replicate 12 0x1B#8

theorem runAtTheEnd_length : runAtTheEnd.length = 392 := by
  rw [runAtTheEnd, List.length_append, List.length_replicate, List.length_replicate]

theorem witness_CandidateFrameOfTheRawStream_collapse :
    State.reset.st = .hunt ∧ State.reset.hc = 0#3 ∧ (destuff 0 runAtTheEnd).length = 388 ∧
      (∀ n, n < runAtTheEnd.length → (destuff 0 (runAtTheEnd.take n)).length < 388) ∧
      (List.replicate 8 (0x1B#8 : Byte)).length = 8 := by
  refine ⟨rfl, rfl, ?_, fun n hn => ?_, rfl⟩
  · rw [runAtTheEnd, destuff_zeros_append, List.length_append, List.length_replicate]
    decide
  · rw [runAtTheEnd_length] at hn
    rw [runAtTheEnd, List.take_append, List.take_replicate, List.length_replicate, destuff_zeros_append,
      List.length_append, List.length_replicate]
    by_cases h : n ≤ 380
    · rw [Nat.sub_eq_zero_of_le h]
      have : (destuff 0 ((List.replicate 12 (0x1B#8 : Byte)).take 0)).length = 0 := by decide
      omega
    · have := (by decide : ∀ k < 12, (destuff 0 ((List.replicate 12 (0x1B#8 : Byte)).take k)).length < 8)
        (n - 380) (by omega)
      omega

theorem witness_OnlyValidFramesAreDelivered : OutEvent.meas (goodRecord 412#_) ∈ observe 1 (validating goodFrame) := by
  have h := (step_validating frameValid_goodFrame).trans test_validatePass_latches
  rw [observe, h, nextOp_validating frameValid_goodFrame]
  exact List.mem_cons_self

end Sys2Proof.Tests
end

section
/-!
PROOFS. The step as one operation, the faults of the validation, and the ranges of the big-endian
integers (00_scope.md R9, R10).
-/

namespace Sys2Proof.Machine

/-! ### The step -/

/-- The step at an edge whose ports select an operation (R10). -/
theorem step_of_select {s : State} {t : Tick} {rest : List Tick} {w : StepWord} {i : Instr}
    (ht : s.ticks = t :: rest) (hf : fetch s t = some w) (hs : select s w = .next i) :
    step s = exec i (s.advance t) := by
  simp [step, ht, hf, hs]

/-- Settles O24: the decode under the guards is what `select` takes, and `advance` is the edge's side. -/
theorem stepRunsTheDecodedOperation : Obligations.StepRunsTheDecodedOperation := by
  intro s k rest w g i ht hf hg hd
  have hs : select s w = .next i := select_eq_next.2 ⟨g, hg, hd⟩
  rw [step_of_select ht hf hs, State.advance, ht, List.tail_cons]

/-! ### Faults of the reads -/

/-- Inside the buffer a read fails on an unwritten byte alone, and the fault names it (R25). -/
theorem Memory.get_eq_error {m : Memory} {i : Nat} {f : Fault} (hi : i < Config.frameLen) :
    m.get i = .error f ↔ m.read? i = none ∧ f = .unwrittenRead i := by
  unfold Memory.get
  rw [if_pos hi]
  cases m.read? i <;> simp [eq_comm]

/-- The fault of a `MemRead` is the fault of one of its bytes. -/
theorem Memory.exists_get_eq_error_of_getBytes {m : Memory} {i n : Nat} {f : Fault}
    (h : m.getBytes i n = .error f) :
    ∃ j, i ≤ j ∧ j < i + n ∧ m.get j = .error f := by
  induction n generalizing i with
  | zero => simp [Memory.getBytes] at h
  | succ n ih =>
    unfold Memory.getBytes at h
    split at h
    · cases h
    · rename_i hb
      cases h
      exact ⟨i, Nat.le_refl i, by omega, hb⟩
    · rename_i hbs
      cases h
      obtain ⟨j, hij, hjn, hj⟩ := ih hbs
      exact ⟨j, by omega, by omega, hj⟩

/-- `f` is the fault `UnwrittenRead` of a byte of the buffer that is unwritten (R25). -/
def Fault.IsUnwrittenIn (m : Memory) (f : Fault) : Prop := ∃ c, m.read? c = none ∧ f = .unwrittenRead c

/-- A `MemRead` inside the buffer fails on an unwritten byte alone. -/
theorem Memory.isUnwrittenIn_of_getBytes {m : Memory} {i n : Nat} {f : Fault} (hn : i + n ≤ Config.frameLen)
    (h : m.getBytes i n = .error f) : f.IsUnwrittenIn m := by
  obtain ⟨j, _, hjn, hj⟩ := Memory.exists_get_eq_error_of_getBytes h
  exact ⟨j, (Memory.get_eq_error (by omega)).1 hj⟩

/-- The bytes of a `MemRead` that answers are written. -/
theorem Memory.writtenIn_of_getBytes {m : Memory} {i n : Nat} {bs : List Byte} (h : m.getBytes i n = .ok bs) :
    m.writtenIn i (i + n) := by
  intro a han hia
  obtain ⟨hlen, hbytes⟩ := Memory.getBytes_eq_ok.1 h
  obtain ⟨_, hr⟩ := hbytes (a - i) (by omega)
  rw [Nat.add_sub_cancel' hia] at hr
  rw [hr, List.getElem?_eq_getElem (by omega), Option.isSome_some]

/-! ### Faults of the validator's checks -/

theorem emOk_eq_error {m : Memory} {f : Fault} : emOk m = .error f ↔ m.getBytes 396 5 = .error f := by
  show (m.getBytes 396 5).map _ = _ ↔ _
  cases m.getBytes 396 5 <;> simp [Except.map]

theorem getBytes_eq_error_of_crcOk {m : Memory} {f : Fault} (h : crcOk m = .error f) :
    m.getBytes 59 306 = .error f ∨ m.getBytes 366 2 = .error f := by
  unfold crcOk at h
  split at h
  · cases h
  · rename_i hspan
    cases h
    exact .inl hspan
  · rename_i hfield
    cases h
    exact .inr hfield

theorem check_eq_error_of_frameValid {m : Memory} {f : Fault} (h : frameValid m = .error f) :
    emOk m = .error f ∨ crcOk m = .error f := by
  unfold frameValid at h
  split at h
  · cases h
  · rename_i hem
    cases h
    exact .inl hem
  · rename_i hcrc
    cases h
    exact .inr hcrc

/-- The validator's checks fail on an unwritten byte alone: all they read lies inside the buffer. -/
theorem isUnwrittenIn_of_frameValid {m : Memory} {f : Fault} (h : frameValid m = .error f) :
    f.IsUnwrittenIn m := by
  rcases check_eq_error_of_frameValid h with hem | hcrc
  · exact Memory.isUnwrittenIn_of_getBytes (by decide) (emOk_eq_error.1 hem)
  · rcases getBytes_eq_error_of_crcOk hcrc with hspan | hfield
    · exact Memory.isUnwrittenIn_of_getBytes (by decide) hspan
    · exact Memory.isUnwrittenIn_of_getBytes (by decide) hfield

/-- Where the checks have an answer, every byte they read is written. -/
theorem writtenIn_of_frameValid {m : Memory} {v : Bool} (h : frameValid m = .ok v) :
    m.writtenIn 59 365 ∧ m.writtenIn 366 368 ∧ m.writtenIn 396 401 := by
  obtain ⟨_, _, hem, hcrc, _⟩ := frameValid_eq_ok.1 h
  obtain ⟨_, hmarker, _⟩ := emOk_eq_ok.1 hem
  obtain ⟨_, _, hspan, hfield, _⟩ := crcOk_eq_ok.1 hcrc
  exact ⟨Memory.writtenIn_of_getBytes hspan, Memory.writtenIn_of_getBytes hfield,
    Memory.writtenIn_of_getBytes hmarker⟩

/-- In VAL a fault of the checks is the answer of either validation, whatever it was to answer. -/
theorem whenFrame_of_error {s : State} {f : Fault} (hst : s.st = .val) (hf : frameValid s.buf = .error f)
    (v : Bool) (a : Answer) : whenFrame s v a = .fault f := by
  simp [whenFrame, guarded, hst, St.isReserved, hf]

/-- Settles O38: checks with an unwritten byte have no answer, so they have a fault, which names an unwritten
byte and is the answer of both operations. -/
theorem validationOfUnwrittenBytesFaults : Obligations.ValidationOfUnwrittenBytesFaults := by
  intro s a hst ha hnone
  cases hv : frameValid s.buf with
  | error f =>
    obtain ⟨c, hc, rfl⟩ := isUnwrittenIn_of_frameValid hv
    exact ⟨c, hc, whenFrame_of_error hst hv _ _, whenFrame_of_error hst hv _ _⟩
  | ok v =>
    obtain ⟨hspan, hfield, hmarker⟩ := writtenIn_of_frameValid hv
    have hwritten : (s.buf.read? a).isSome = true := by
      rcases ha with ⟨hlo, hhi⟩ | ⟨hlo, hhi⟩ | ⟨hlo, hhi⟩
      · exact hspan a hhi hlo
      · exact hfield a hhi hlo
      · exact hmarker a hhi hlo
    simp [hnone] at hwritten

/-! ### Big-endian integers -/

/-- The fold of `BEu` from any start: the start moves up by the bytes that follow it. -/
theorem beU_foldl (bs : List Byte) (n : Nat) :
    bs.foldl (fun n b => n * 256 + b.toNat) n = n * 256 ^ bs.length + beU bs := by
  induction bs generalizing n with
  | nil => simp [beU]
  | cons b bs ih =>
    rw [beU, List.foldl_cons, List.foldl_cons, ih, ih (0 * 256 + b.toNat), List.length_cons]
    ring

/-- `BEu` is positional, the most significant byte first (R9). -/
theorem beU_cons (b : Byte) (bs : List Byte) : beU (b :: bs) = b.toNat * 256 ^ bs.length + beU bs := by
  rw [beU, List.foldl_cons, beU_foldl, Nat.zero_mul, Nat.zero_add]

/-- `BEu` of `n` bytes is below `256^n`. -/
theorem beU_lt (bs : List Byte) : beU bs < 256 ^ bs.length := by
  induction bs with
  | nil => simp [beU]
  | cons b bs ih =>
    have hb : b.toNat + 1 ≤ 256 := b.isLt
    calc beU (b :: bs) = b.toNat * 256 ^ bs.length + beU bs := beU_cons b bs
      _ < (b.toNat + 1) * 256 ^ bs.length := by rw [Nat.add_one_mul]; omega
      _ ≤ 256 * 256 ^ bs.length := Nat.mul_le_mul_right _ hb
      _ = 256 ^ (b :: bs).length := by rw [List.length_cons, Nat.pow_succ']

/-- `BEs` is `BEu` less `2^(8n)` exactly where the sign bit is set (R9). -/
theorem beS_cons (b : Byte) (bs : List Byte) :
    beS (b :: bs) = (beU (b :: bs) : Int) - (if 0x80 ≤ b.toNat then 2 ^ (8 * (bs.length + 1)) else 0) := by
  rw [beS, List.length_cons]
  split <;> simp

/-- The first byte tells in which half of its range `BEu` lies. -/
theorem beU_cons_lt_half_iff (b : Byte) (bs : List Byte) :
    beU (b :: bs) < 128 * 256 ^ bs.length ↔ b.toNat < 0x80 := by
  have htail := beU_lt bs
  rw [beU_cons]
  constructor
  · intro h
    exact Nat.lt_of_mul_lt_mul_right (Nat.lt_of_le_of_lt (Nat.le_add_right _ _) h)
  · intro hb
    have := Nat.mul_le_mul_right (256 ^ bs.length) (Nat.succ_le_of_lt hb)
    rw [Nat.succ_mul] at this
    omega

theorem two_pow_bits (n : Nat) : 2 ^ (8 * (n + 1)) = 256 * 256 ^ n := by
  rw [Nat.pow_mul, Nat.pow_succ']

theorem two_pow_bits_half (n : Nat) : 2 ^ (8 * (n + 1) - 1) = 128 * 256 ^ n := by
  rw [show 8 * (n + 1) - 1 = 7 + 8 * n by omega, Nat.pow_add, Nat.pow_mul]

/-- `BEs` of `n` bytes lies in the two's-complement range of `8n` bits (R9). -/
theorem beS_cons_range (b : Byte) (bs : List Byte) :
    -(128 * 256 ^ bs.length : Nat) ≤ beS (b :: bs) ∧ beS (b :: bs) < (128 * 256 ^ bs.length : Nat) := by
  have hlt : beU (b :: bs) < 256 * 256 ^ bs.length := by
    simpa [Nat.pow_succ'] using beU_lt (b :: bs)
  have hhalf := beU_cons_lt_half_iff b bs
  have hbits : (2 : Int) ^ (8 * (bs.length + 1)) = (256 * 256 ^ bs.length : Nat) := by
    rw [← two_pow_bits]; norm_cast
  rw [beS_cons, hbits]
  split <;> omega

/-- Settles O44, from the recursion of `BEu` over the bytes and the half that the first byte selects. -/
theorem bigEndianIntegersAreInRange : Obligations.BigEndianIntegersAreInRange := by
  intro b bs
  have hhalf : (2 : Int) ^ (8 * (bs.length + 1) - 1) = (128 * 256 ^ bs.length : Nat) := by
    rw [← two_pow_bits_half]; norm_cast
  obtain ⟨hlo, hhi⟩ := beS_cons_range b bs
  refine ⟨beU_cons b bs, ?_, beS_cons b bs, ?_, ?_⟩
  · rw [Nat.pow_mul]
    exact beU_lt (b :: bs)
  · rwa [hhalf]
  · rwa [hhalf]

end Sys2Proof.Machine
end

section
/-!
PROOFS. What each operation does, said once as a relation over the state before and after it, and what every
operation leaves alone (10_state.md R20 to R28).
-/

namespace Sys2Proof.Machine

/-! ### The effect of an operation -/

/-- `Effect s i t`: in the state `s` the operation `i` is selected, and it leads to `t`. One constructor for
each operation, with its guard (R65), what it reads of the buffer, and its result; `exec_eq_next` ties it to `exec`. -/
inductive Effect (s : State) : Instr → State → Prop
  /-- R81. -/
  | huntEsc (hst : s.st = .hunt) (hhc : s.hc.toNat < 4) : Effect s .huntEsc { s.noDiag with hc := s.hc + 1 }
  /-- R82. -/
  | huntSoh (hst : s.st = .hunt) (hlo : 4 ≤ s.hc.toNat) (hhi : s.hc.toNat < 7) :
    Effect s .huntSoh { s.noDiag with hc := s.hc + 1 }
  /-- R84. -/
  | huntComplete {m : Memory} (hst : s.st = .hunt) (hhc : s.hc.toNat = 7)
      (hm : s.buf.putBytes 0 Config.startMarker = .ok m) :
    Effect s .huntComplete { s.noDiag with buf := m, pos := 8#9, run := 0#3, hc := 0#3, st := .acc }
  /-- R83. -/
  | huntMismatch {b : Byte} (hst : s.st = .hunt) (hb : b ≠ pat s.hc) :
    Effect s (.huntMismatch b) { s.noDiag with hc := 0#3 }
  /-- R85. -/
  | accEsc (hst : s.st = .acc) (hrun : s.run.toNat < 7) (hpos : s.pos.toNat < 404) :
    Effect s .accEsc
      { s.noDiag with
        buf := s.buf.write s.pos.toNat Config.esc
        pos := s.pos + 1
        run := s.run + 1
        st := if (s.pos + 1).toNat = 396 then .trl else .acc }
  /-- R86. -/
  | accCollapse (hst : s.st = .acc) (hrun : s.run.toNat = 7) (hpos : s.pos.toNat < 404) :
    Effect s .accCollapse
      { s.noDiag with buf := s.buf.write s.pos.toNat Config.esc, pos := s.pos + 1 - 4#9, run := 0#3 }
  /-- R87. -/
  | accOther {b : Byte} (hst : s.st = .acc) (hb : b ≠ Config.esc) (hpos : s.pos.toNat < 404) :
    Effect s (.accOther b)
      { s.noDiag with
        buf := s.buf.write s.pos.toNat b
        pos := s.pos + 1
        run := 0#3
        st := if (s.pos + 1).toNat = 396 then .trl else .acc }
  /-- R88. -/
  | trlByte {b : Byte} (hst : s.st = .trl) (hpos : s.pos.toNat < 404) :
    Effect s (.trlByte b)
      { s.noDiag with
        buf := s.buf.write s.pos.toNat b
        pos := s.pos + 1
        st := if (s.pos + 1).toNat = 404 then .val else .trl }
  /-- R105. -/
  | validatePass {r : Measurement} (hst : s.st = .val) (hv : frameValid s.buf = .ok true)
      (hr : decodeFrame s.buf s.tsIn = .ok r) :
    Effect s .validatePass { s.noDiag with mRec := r, mValid := true, st := .emit }
  /-- R106. -/
  | validateFail {r : Corruption} (hst : s.st = .val) (hv : frameValid s.buf = .ok false)
      (hr : corruptionOf s.buf = .ok r) :
    Effect s .validateFail (s.raiseFrameCorruption r)
  /-- R134. -/
  | emitAccept (hst : s.st = .emit) : Effect s .emitAccept { s.noDiag.enterHunt with mValid := false }
  /-- R141. -/
  | srcError {q : St} (hst : s.st = q) (hq : q.reads = true) : Effect s (.srcError q) s.raiseSourceError
  /-- R160. -/
  | reset : Effect s .reset { s.noDiag.enterHunt.drawRec with buf := [], mValid := false, ioError := false }

/-- The guard of an operation names a state that is not reserved. -/
theorem guarded_in_state {s t : State} {q : St} {p : Prop} [Decidable p] {a : Answer} (hq : q.isReserved = false)
    (hp : p → s.st = q) : guarded s (decide p) a = .next t ↔ p ∧ a = .next t := by
  rw [guarded_eq_next, decide_eq_true_iff]
  constructor
  · rintro ⟨_, h⟩
    exact h
  · rintro ⟨h, ha⟩
    exact ⟨hp h ▸ hq, h, ha⟩

/-- A byte stored at `pos` and what is done after it. -/
theorem orFault_storeByte_eq_next {s t : State} {b : Byte} {p : Index} {k : State → Answer} :
    orFault (s.storeByte b p) k = .next t ↔
      s.pos.toNat < 404 ∧ k { s with buf := s.buf.write s.pos.toNat b, pos := p } = .next t := by
  simp only [orFault_eq_next, State.storeByte_eq_ok]
  constructor
  · rintro ⟨_, ⟨hpos, rfl⟩, hk⟩
    exact ⟨hpos, hk⟩
  · rintro ⟨hpos, hk⟩
    exact ⟨_, ⟨hpos, rfl⟩, hk⟩

/-- Everything an operation that answers can have done. -/
theorem effect_of_exec {s t : State} {i : Instr} (h : exec i s = .next t) : Effect s i t := by
  cases i with
  | huntEsc =>
    obtain ⟨⟨hst, hhc⟩, ha⟩ := (guarded_in_state rfl And.left).1 h
    cases ha
    exact .huntEsc hst hhc
  | huntSoh =>
    obtain ⟨⟨hst, hlo, hhi⟩, ha⟩ := (guarded_in_state rfl And.left).1 h
    cases ha
    exact .huntSoh hst hlo hhi
  | huntComplete =>
    obtain ⟨⟨hst, hhc⟩, ha⟩ := (guarded_in_state rfl And.left).1 h
    obtain ⟨m, hm, ha⟩ := orFault_eq_next.1 ha
    cases ha
    exact .huntComplete hst hhc hm
  | huntMismatch b =>
    obtain ⟨⟨hst, hb⟩, ha⟩ := (guarded_in_state rfl And.left).1 h
    cases ha
    exact .huntMismatch hst hb
  | accEsc =>
    obtain ⟨⟨hst, hrun⟩, ha⟩ := (guarded_in_state rfl And.left).1 h
    obtain ⟨hpos, ha⟩ := orFault_storeByte_eq_next.1 ha
    cases ha
    simpa [State.moveAt, hst] using Effect.accEsc hst hrun hpos
  | accCollapse =>
    obtain ⟨⟨hst, hrun⟩, ha⟩ := (guarded_in_state rfl And.left).1 h
    obtain ⟨hpos, ha⟩ := orFault_storeByte_eq_next.1 ha
    cases ha
    exact .accCollapse hst hrun hpos
  | accOther b =>
    obtain ⟨⟨hst, hb⟩, ha⟩ := (guarded_in_state rfl And.left).1 h
    obtain ⟨hpos, ha⟩ := orFault_storeByte_eq_next.1 ha
    cases ha
    simpa [State.moveAt, hst] using Effect.accOther hst hb hpos
  | trlByte b =>
    obtain ⟨hst, ha⟩ := (guarded_in_state rfl id).1 h
    obtain ⟨hpos, ha⟩ := orFault_storeByte_eq_next.1 ha
    cases ha
    simpa [State.moveAt, hst] using Effect.trlByte hst hpos
  | validatePass =>
    obtain ⟨hst, hv, ha⟩ := whenFrame_eq_next.1 h
    obtain ⟨r, hr, ha⟩ := orFault_eq_next.1 ha
    cases ha
    exact .validatePass hst hv hr
  | validateFail =>
    obtain ⟨hst, hv, ha⟩ := whenFrame_eq_next.1 h
    obtain ⟨r, hr, ha⟩ := orFault_eq_next.1 ha
    cases ha
    exact .validateFail hst hv hr
  | emitAccept =>
    obtain ⟨hst, ha⟩ := (guarded_in_state rfl id).1 h
    cases ha
    exact .emitAccept hst
  | srcError q =>
    obtain ⟨_, hsel, ha⟩ := guarded_eq_next.1 h
    obtain ⟨hst, hq⟩ := (Bool.and_eq_true ..).mp hsel
    cases ha
    exact .srcError (of_decide_eq_true hst) hq
  | reset =>
    cases h
    exact .reset

/-- An operation does what its effect says wherever its guard holds and what it reads is there. -/
theorem exec_of_effect {s t : State} {i : Instr} (h : Effect s i t) : exec i s = .next t := by
  cases h with
  | huntEsc hst hhc => exact (guarded_in_state rfl And.left).2 ⟨⟨hst, hhc⟩, rfl⟩
  | huntSoh hst hlo hhi => exact (guarded_in_state rfl And.left).2 ⟨⟨hst, hlo, hhi⟩, rfl⟩
  | huntComplete hst hhc hm =>
    exact (guarded_in_state rfl And.left).2 ⟨⟨hst, hhc⟩, orFault_eq_next.2 ⟨_, hm, rfl⟩⟩
  | huntMismatch hst hb => exact (guarded_in_state rfl And.left).2 ⟨⟨hst, hb⟩, rfl⟩
  | accEsc hst hrun hpos =>
    refine (guarded_in_state rfl And.left).2 ⟨⟨hst, hrun⟩, orFault_storeByte_eq_next.2 ⟨hpos, ?_⟩⟩
    simp [State.moveAt, hst]
  | accCollapse hst hrun hpos =>
    exact (guarded_in_state rfl And.left).2 ⟨⟨hst, hrun⟩, orFault_storeByte_eq_next.2 ⟨hpos, rfl⟩⟩
  | accOther hst hb hpos =>
    refine (guarded_in_state rfl And.left).2 ⟨⟨hst, hb⟩, orFault_storeByte_eq_next.2 ⟨hpos, ?_⟩⟩
    simp [State.moveAt, hst]
  | trlByte hst hpos =>
    refine (guarded_in_state rfl id).2 ⟨hst, orFault_storeByte_eq_next.2 ⟨hpos, ?_⟩⟩
    simp [State.moveAt, hst]
  | validatePass hst hv hr => exact whenFrame_eq_next.2 ⟨hst, hv, orFault_eq_next.2 ⟨_, hr, rfl⟩⟩
  | validateFail hst hv hr => exact whenFrame_eq_next.2 ⟨hst, hv, orFault_eq_next.2 ⟨_, hr, rfl⟩⟩
  | emitAccept hst => exact (guarded_in_state rfl id).2 ⟨hst, rfl⟩
  | srcError hst hq =>
    exact guarded_eq_next.2 ⟨hst ▸ St.not_reserved_of_reads hq, by simp [hst, hq], rfl⟩
  | reset => rfl

/-- The operations and their effects. -/
theorem exec_eq_next {s t : State} {i : Instr} : exec i s = .next t ↔ Effect s i t :=
  ⟨effect_of_exec, exec_of_effect⟩

/-! ### What the operations leave alone -/

/-- Settles O19: of the seven operations none has a store in its effect. -/
theorem otherOperationsLeaveTheFrame : Obligations.OtherOperationsLeaveTheFrame := by
  intro s t i hi h a
  cases exec_eq_next.1 h with
  | huntEsc | huntSoh | huntMismatch | validatePass | validateFail | emitAccept | srcError => rfl
  | huntComplete | accEsc | accCollapse | accOther | trlByte | reset => simp at hi

/-- Settles O20: VALIDATE_PASS and RESET alone have the record in their effect. -/
theorem recordChangesOnlyByValidatePass : Obligations.RecordChangesOnlyByValidatePass := by
  intro s t i h hpass hreset
  cases exec_eq_next.1 h with
  | validatePass => exact absurd rfl hpass
  | reset => exact absurd rfl hreset
  | huntEsc | huntSoh | huntComplete | huntMismatch | accEsc | accCollapse | accOther | trlByte | validateFail
  | emitAccept | srcError => rfl

/-- Settles O21: the operations that write a flag, and those that keep both. -/
theorem flagsChangeOnlyByTheirOperations : Obligations.FlagsChangeOnlyByTheirOperations := by
  intro s t i h
  cases exec_eq_next.1 h with
  | validatePass => exact ⟨fun _ => .inl ⟨rfl, rfl⟩, fun hio => absurd rfl hio⟩
  | emitAccept => exact ⟨fun _ => .inr ⟨.inl rfl, rfl⟩, fun hio => absurd rfl hio⟩
  | srcError => exact ⟨fun hv => absurd rfl hv, fun _ => .inl ⟨⟨_, rfl⟩, rfl⟩⟩
  | reset => exact ⟨fun _ => .inr ⟨.inr rfl, rfl⟩, fun _ => .inr ⟨rfl, rfl⟩⟩
  | huntEsc | huntSoh | huntComplete | huntMismatch | accEsc | accCollapse | accOther | trlByte | validateFail =>
    exact ⟨fun hv => absurd rfl hv, fun hio => absurd rfl hio⟩

/-- Settles O23: for each operation the counters of its list stand in its effect as they were. -/
theorem countersKeptByOtherOperations : Obligations.CountersKeptByOtherOperations := by
  intro s t i b q h
  cases exec_eq_next.1 h with
  | huntEsc | huntSoh | huntMismatch => exact ⟨by simp, fun _ => ⟨rfl, rfl⟩, by simp⟩
  | accEsc | accCollapse | accOther => exact ⟨fun _ => rfl, by simp, by simp⟩
  | trlByte => exact ⟨fun _ => rfl, by simp, fun _ => rfl⟩
  | validatePass | srcError => exact ⟨fun _ => rfl, fun _ => ⟨rfl, rfl⟩, by simp⟩
  | huntComplete | validateFail | emitAccept | reset => exact ⟨by simp, by simp, by simp⟩

end Sys2Proof.Machine
end

section
/-!
PROOFS. The invariant R31: it holds after reset and every step keeps it; the diagnostic outputs of an edge (R28).
-/

namespace Sys2Proof.Machine

/-! ### The operation of an edge -/

/-- Without a further edge nothing happens (R152). -/
theorem step_of_no_ticks {s : State} (ht : s.ticks = []) : step s = .next s := by simp [step, ht]

/-- An edge at which the ports select nothing holds the state (R170). -/
theorem step_of_fetch_none {s : State} {k : Tick} {rest : List Tick} (ht : s.ticks = k :: rest)
    (hf : fetch s k = none) (hst : s.st.isReserved = false) : step s = .next (s.advance k).noDiag := by
  simp [step, ht, hf, idle, hst]

/-- Everything an edge that answers can be, in the terms of `nextOp`: no step, or the effect of one operation. -/
theorem nextOp_cases {s s' : State} {k : Tick} {rest : List Tick} (ht : s.ticks = k :: rest)
    (h : step s = .next s') :
    (s.nextOp = none ∧ s' = (s.advance k).noDiag) ∨
      ∃ i, s.nextOp = some i ∧ Effect (s.advance k) i s' := by
  rcases step_cases h with ⟨hnil, _⟩ | ⟨_, _, ht', hedge⟩
  · simp [ht] at hnil
  · obtain ⟨rfl, rfl⟩ := List.cons_eq_cons.1 (ht.symm.trans ht')
    rcases hedge with ⟨hf, _, hs'⟩ | ⟨w, i, hf, hsel, hexec⟩
    · exact .inl ⟨by simp [State.nextOp, ht, hf], hs'⟩
    · exact .inr ⟨i, by simp [State.nextOp, ht, hf, hsel], exec_eq_next.1 hexec⟩

/-! ### The diagnostic outputs -/

/-- The diagnostic outputs of an edge that raises no FrameCorruption (R28). -/
def State.DiagQuiet (s : State) : Prop := s.diagValid = false ∧ s.diagReason = 0b00#2

theorem State.noDiag_diagQuiet (s : State) : s.noDiag.DiagQuiet := ⟨rfl, rfl⟩

/-- The diagnostic outputs of an edge that raises one: the reason is one of the two (R140). -/
def State.DiagRaised (s : State) : Prop :=
  s.diagValid = true ∧ (s.diagReason = 0b01#2 ∨ s.diagReason = 0b10#2)

theorem State.raiseFrameCorruption_diagRaised (s : State) (r : Corruption) :
    (s.raiseFrameCorruption r).DiagRaised := by
  cases r
  · exact ⟨rfl, .inl rfl⟩
  · exact ⟨rfl, .inr rfl⟩

/-- VALIDATE_FAIL drives a reason, every other operation drives none (R28). -/
theorem Effect.diag_cases {s t : State} {i : Instr} (h : Effect s i t) :
    (i = .validateFail ∧ t.DiagRaised) ∨ (i ≠ .validateFail ∧ t.DiagQuiet) := by
  cases h with
  | validateFail => exact .inl ⟨rfl, State.raiseFrameCorruption_diagRaised _ _⟩
  | huntEsc | huntSoh | huntComplete | huntMismatch | accEsc | accCollapse | accOther | trlByte | validatePass
  | emitAccept | srcError | reset => exact .inr ⟨by simp, rfl, rfl⟩

/-- Settles O34: an edge that is no step is quiet, and so is every operation but VALIDATE_FAIL. -/
theorem diagnosticPulseMarksValidateFail : Obligations.DiagnosticPulseMarksValidateFail := by
  intro s s' hne h
  obtain ⟨k, rest, ht⟩ := List.exists_cons_of_ne_nil hne
  rcases nextOp_cases ht h with ⟨hop, rfl⟩ | ⟨i, hop, heff⟩
  · simp [hop]
  · rcases heff.diag_cases with ⟨rfl, hvalid, hreason⟩ | ⟨hi, hvalid, hreason⟩
    · simp [hop, hvalid, hreason]
    · simp [hop, hvalid, hreason, hi]

/-! ### The clauses of the invariant -/

/-- The reading states (R33). -/
theorem St.reads_iff {q : St} : q.reads = true ↔ q = .hunt ∨ q = .acc ∨ q = .trl := by
  cases q <;> simp [St.reads]

/-- What the invariant says of `diag_valid` and `diag_reason` (R28, R140). -/
def State.DiagInv (s : State) : Prop := (s.diagValid = true ↔ s.diagReason ≠ 0b00#2) ∧ s.diagReason ≠ 0b11#2

/-- What the invariant says of the two flags (R27, R31). -/
def State.FlagsInv (s : State) : Prop := (s.ioError = true ↔ s.st = .failed) ∧ (s.mValid = true ↔ s.st = .emit)

theorem State.inv_iff {s : State} : s.inv ↔ s.buf.wf ∧ s.phaseInv ∧ s.FlagsInv ∧ s.DiagInv := by
  simp only [State.inv, State.FlagsInv, State.DiagInv, and_assoc]

theorem State.DiagQuiet.diagInv {s : State} (h : s.DiagQuiet) : s.DiagInv := by
  obtain ⟨hvalid, hreason⟩ := h
  simp [State.DiagInv, hvalid, hreason]

theorem State.DiagRaised.diagInv {s : State} (h : s.DiagRaised) : s.DiagInv := by
  obtain ⟨hvalid, hreason | hreason⟩ := h <;> simp [State.DiagInv, hvalid, hreason]

theorem Effect.diagInv {s t : State} {i : Instr} (h : Effect s i t) : t.DiagInv := by
  rcases h.diag_cases with ⟨_, hd⟩ | ⟨_, hd⟩
  · exact hd.diagInv
  · exact hd.diagInv

/-- Each operation sets the flags as the state it leads to asks. -/
theorem Effect.flagsInv {s t : State} {i : Instr} (h : Effect s i t) (hs : s.FlagsInv) : t.FlagsInv := by
  obtain ⟨hio, hv⟩ := hs
  cases h with
  | huntEsc hst | huntSoh hst | huntComplete hst | huntMismatch hst | accCollapse hst | validatePass hst
  | validateFail hst | emitAccept hst => simp [State.FlagsInv, hio, hv, hst]
  | accEsc hst | accOther hst | trlByte hst =>
    simp only [State.FlagsInv, State.noDiag_ioError, State.noDiag_mValid, hio, hv, hst]
    split <;> simp
  | srcError hst hq =>
    have hemit : s.st ≠ .emit := by
      rcases St.reads_iff.1 hq with hr | hr | hr <;> simp [hst, hr]
    simp [State.FlagsInv, hv, hemit]
  | reset => simp [State.FlagsInv]

/-! ### The frame buffer under a store -/

theorem Memory.writtenIn_write_next {m : Memory} {n : Nat} (b : Byte) (h : m.writtenIn 0 n) :
    (m.write n b).writtenIn 0 (n + 1) := by
  intro i hi _
  rcases Nat.lt_succ_iff_lt_or_eq.1 hi with hlt | rfl
  · exact Memory.isSome_write (h i hlt (Nat.zero_le i))
  · simp

theorem Memory.writtenIn_mono {m : Memory} {a b c : Nat} (h : m.writtenIn a c) (hbc : b ≤ c) : m.writtenIn a b :=
  fun i hi hai => h i (Nat.lt_of_lt_of_le hi hbc) hai

theorem Memory.writtenIn_of_holdsAt {m : Memory} {bs : List Byte} (h : m.holdsAt 0 bs) :
    m.writtenIn 0 bs.length := by
  intro i hi _
  have hread := h i hi
  rw [Nat.zero_add] at hread
  simp [hread, hi]

theorem Memory.holdsAt_nil (m : Memory) (a : Nat) : m.holdsAt a [] := fun _ hk => absurd hk (Nat.not_lt_zero _)

/-- A store behind a string leaves it. -/
theorem Memory.holdsAt_write_of_le {m : Memory} {a n : Nat} {bs : List Byte} (b : Byte) (h : m.holdsAt a bs)
    (hn : a + bs.length ≤ n) : (m.write n b).holdsAt a bs := by
  intro k hk
  rw [Memory.read?_write_of_ne b (by omega)]
  exact h k hk

theorem Memory.startMarker_write {m : Memory} {n : Nat} (b : Byte) (h : m.holdsAt 0 Config.startMarker)
    (hn : 8 ≤ n) : (m.write n b).holdsAt 0 Config.startMarker :=
  Memory.holdsAt_write_of_le b h hn

/-- A store right behind a string makes it longer. -/
theorem Memory.holdsAt_write_snoc {m : Memory} {a n : Nat} {bs : List Byte} (b : Byte) (h : m.holdsAt a bs)
    (hn : a + bs.length = n) : (m.write n b).holdsAt a (bs ++ [b]) := by
  subst hn
  intro k hk
  rcases Nat.lt_succ_iff_lt_or_eq.1 (by simpa using hk) with hlt | rfl
  · rw [Memory.read?_write_of_ne b (by omega), h k hlt, List.getElem?_append_left hlt]
  · simp

/-! ### The invariant of each state -/

theorem State.phaseInv_of_hunt {s : State} (hst : s.st = .hunt) (h : s.huntInv) : s.phaseInv := by
  simp only [State.phaseInv, hst]
  exact ⟨fun _ => h, by simp, by simp, by simp, rfl⟩

theorem State.phaseInv_of_acc {s : State} (hst : s.st = .acc) (h : s.accInv) : s.phaseInv := by
  simp only [State.phaseInv, hst]
  exact ⟨by simp, fun _ => h, by simp, by simp, rfl⟩

theorem State.phaseInv_of_trl {s : State} (hst : s.st = .trl) (h : s.trlInv) : s.phaseInv := by
  simp only [State.phaseInv, hst]
  exact ⟨by simp, by simp, fun _ => h, by simp, rfl⟩

theorem State.phaseInv_of_frame {s : State} (hst : s.st = .val ∨ s.st = .emit) (h : s.frameInv) : s.phaseInv := by
  rcases hst with hst | hst <;> simp only [State.phaseInv, hst] <;>
    exact ⟨by simp, by simp, by simp, fun _ => h, rfl⟩

theorem State.phaseInv_of_failed {s : State} (hst : s.st = .failed) : s.phaseInv := by
  simp [State.phaseInv, hst, St.isReserved]

theorem State.phaseInv.hunt {s : State} (h : s.phaseInv) (hst : s.st = .hunt) : s.huntInv := by
  obtain ⟨hhunt, _⟩ := h
  exact hhunt hst

theorem State.phaseInv.acc {s : State} (h : s.phaseInv) (hst : s.st = .acc) : s.accInv := by
  obtain ⟨_, hacc, _⟩ := h
  exact hacc hst

theorem State.phaseInv.trl {s : State} (h : s.phaseInv) (hst : s.st = .trl) : s.trlInv := by
  obtain ⟨_, _, htrl, _⟩ := h
  exact htrl hst

theorem State.phaseInv.frame {s : State} (h : s.phaseInv) (hst : s.st = .val ∨ s.st = .emit) : s.frameInv := by
  obtain ⟨_, _, _, hframe, _⟩ := h
  exact hframe hst

theorem State.phaseInv.not_reserved {s : State} (h : s.phaseInv) : s.st.isReserved = false := by
  obtain ⟨_, _, _, _, hres⟩ := h
  exact hres

/-! ### Each operation leads to a state that meets its part -/

theorem Index.toNat_next {p : Index} (h : p.toNat < 404) : (p + 1).toNat = p.toNat + 1 := by bv_omega

theorem Index.toNat_rewind {p : Index} (hlo : 3 ≤ p.toNat) (hhi : p.toNat < 404) :
    (p + 1 - 4#9).toNat = p.toNat - 3 := by bv_omega

theorem Count.toNat_next {c : Count} (h : c.toNat < 7) : (c + 1).toNat = c.toNat + 1 := by bv_omega

theorem State.accInv_iff {s : State} :
    s.accInv ↔
      s.hc.toNat = 0 ∧ 8 + s.run.toNat ≤ s.pos.toNat ∧ s.pos.toNat < 396 ∧ s.buf.writtenIn 0 s.pos.toNat ∧
        s.buf.holdsAt 0 Config.startMarker ∧
        s.buf.holdsAt (s.pos.toNat - s.run.toNat) (List.replicate s.run.toNat Config.esc) :=
  Iff.rfl

theorem State.trlInv_iff {s : State} :
    s.trlInv ↔
      s.hc.toNat = 0 ∧ 396 ≤ s.pos.toNat ∧ s.pos.toNat < 404 ∧ s.buf.writtenIn 0 s.pos.toNat ∧
        s.buf.holdsAt 0 Config.startMarker :=
  Iff.rfl

/-- HUNT_COMPLETE begins a payload behind the start marker (R84). -/
theorem State.accInv_of_marker {t : State} (hbuf : t.buf.holdsAt 0 Config.startMarker) (hhc : t.hc = 0#3)
    (hrun : t.run = 0#3) (hpos : t.pos = 8#9) : t.accInv := by
  have hwritten : t.buf.writtenIn 0 8 := Memory.writtenIn_of_holdsAt hbuf
  rw [State.accInv_iff, hhc, hrun, hpos]
  exact ⟨rfl, by decide, by decide, hwritten, hbuf, Memory.holdsAt_nil _ _⟩

/-- A byte stored behind the payload keeps R31, in ACC and where the payload is full in TRL, as long as the run
counted with it ends at the new write index (R85, R87). -/
theorem State.phaseInv_of_payload_store {s t : State} {b : Byte} (h : s.accInv)
    (hbuf : t.buf = s.buf.write s.pos.toNat b) (hpos : t.pos = s.pos + 1) (hhc : t.hc = s.hc)
    (hst : t.st = if (s.pos + 1).toNat = 396 then .trl else .acc)
    (hrun : 8 + t.run.toNat ≤ s.pos.toNat + 1)
    (hesc : t.buf.holdsAt (s.pos.toNat + 1 - t.run.toNat) (List.replicate t.run.toNat Config.esc)) :
    t.phaseInv := by
  obtain ⟨hhc0, hlo, hhi, hwritten, hmarker, _⟩ := State.accInv_iff.1 h
  have hnext : t.pos.toNat = s.pos.toNat + 1 := hpos ▸ Index.toNat_next (by omega)
  have hwritten' : t.buf.writtenIn 0 t.pos.toNat := by
    rw [hnext, hbuf]
    exact Memory.writtenIn_write_next b hwritten
  have hmarker' : t.buf.holdsAt 0 Config.startMarker := by
    rw [hbuf]
    exact Memory.startMarker_write b hmarker (by omega)
  rw [← hpos, hnext] at hst
  split at hst
  · rename_i hfull
    exact State.phaseInv_of_trl hst (State.trlInv_iff.2 ⟨hhc ▸ hhc0, by omega, by omega, hwritten', hmarker'⟩)
  · rename_i hfull
    exact State.phaseInv_of_acc hst
      (State.accInv_iff.2 ⟨hhc ▸ hhc0, by omega, by omega, hwritten', hmarker', hnext ▸ hesc⟩)

/-- Where an ACC state counts one more `0x1B`, the run's bytes in the buffer are one more too (R23). -/
theorem State.run_holdsAt_write_esc {s : State} (h : s.accInv) :
    (s.buf.write s.pos.toNat Config.esc).holdsAt (s.pos.toNat + 1 - (s.run.toNat + 1))
      (List.replicate (s.run.toNat + 1) Config.esc) := by
  obtain ⟨_, hlo, _, _, _, hesc⟩ := State.accInv_iff.1 h
  rw [Nat.add_sub_add_right, List.replicate_succ']
  exact Memory.holdsAt_write_snoc _ hesc (by rw [List.length_replicate]; omega)

/-- The collapse goes back by 3 inside the payload: the run of 7 before it lies there (R86). -/
theorem State.accInv_of_collapse {s t : State} {b : Byte} (h : s.accInv) (hrun : s.run.toNat = 7)
    (hbuf : t.buf = s.buf.write s.pos.toNat b) (hpos : t.pos = s.pos + 1 - 4#9) (hhc : t.hc = s.hc)
    (hrun' : t.run = 0#3) : t.accInv := by
  obtain ⟨hhc0, hlo, hhi, hwritten, hmarker, _⟩ := State.accInv_iff.1 h
  have hback : t.pos.toNat = s.pos.toNat - 3 := hpos ▸ Index.toNat_rewind (by omega) (by omega)
  have hzero : t.run.toNat = 0 := by simp [hrun']
  refine State.accInv_iff.2 ⟨hhc ▸ hhc0, by omega, by omega, ?_, ?_, by rw [hzero]; exact Memory.holdsAt_nil _ _⟩
  · rw [hbuf]
    exact Memory.writtenIn_mono (Memory.writtenIn_write_next b hwritten) (by omega)
  · rw [hbuf]
    exact Memory.startMarker_write b hmarker (by omega)

/-- A trailer byte keeps R31, in TRL and where the frame is full in VAL (R88). -/
theorem State.phaseInv_of_trailer_store {s t : State} {b : Byte} (h : s.trlInv)
    (hbuf : t.buf = s.buf.write s.pos.toNat b) (hpos : t.pos = s.pos + 1) (hhc : t.hc = s.hc)
    (hst : t.st = if (s.pos + 1).toNat = 404 then .val else .trl) : t.phaseInv := by
  obtain ⟨hhc0, hlo, hhi, hwritten, hmarker⟩ := State.trlInv_iff.1 h
  have hnext : t.pos.toNat = s.pos.toNat + 1 := hpos ▸ Index.toNat_next hhi
  have hwritten' : t.buf.writtenIn 0 (s.pos.toNat + 1) := by
    rw [hbuf]
    exact Memory.writtenIn_write_next b hwritten
  have hmarker' : t.buf.holdsAt 0 Config.startMarker := by
    rw [hbuf]
    exact Memory.startMarker_write b hmarker (by omega)
  rw [← hpos, hnext] at hst
  split at hst
  · rename_i hfull
    exact State.phaseInv_of_frame (.inl hst)
      ⟨hhc ▸ hhc0, hnext.trans hfull, Memory.writtenIn_mono hwritten' (Nat.le_of_eq hfull.symm), hmarker'⟩
  · rename_i hfull
    exact State.phaseInv_of_trl hst
      (State.trlInv_iff.2 ⟨hhc ▸ hhc0, by omega, by omega, hnext ▸ hwritten', hmarker'⟩)

/-- Every operation keeps what R31 says of the state it is in. -/
theorem Effect.phaseInv {s t : State} {i : Instr} (h : Effect s i t) (hs : s.phaseInv) : t.phaseInv := by
  cases h with
  | huntEsc hst | huntSoh hst | huntMismatch hst => exact State.phaseInv_of_hunt hst (hs.hunt hst)
  | huntComplete _ _ hm =>
    obtain ⟨m, hm', hholds, _⟩ := Memory.putBytes_spec (m := s.buf) (i := 0) (vs := Config.startMarker) (by decide)
    cases hm.symm.trans hm'
    exact State.phaseInv_of_acc rfl (State.accInv_of_marker hholds rfl rfl rfl)
  | accEsc hst hrun =>
    have hacc := hs.acc hst
    have hnext := Count.toNat_next hrun
    refine State.phaseInv_of_payload_store hacc rfl rfl rfl rfl ?_ ?_
    · obtain ⟨_, hlo, _⟩ := State.accInv_iff.1 hacc
      show _ + (s.run + 1).toNat ≤ _
      omega
    · show Memory.holdsAt _ (_ - (s.run + 1).toNat) (List.replicate (s.run + 1).toNat _)
      rw [hnext]
      exact State.run_holdsAt_write_esc hacc
  | accCollapse hst hrun =>
    exact State.phaseInv_of_acc hst (State.accInv_of_collapse (hs.acc hst) hrun rfl rfl rfl rfl)
  | accOther hst =>
    have hacc := hs.acc hst
    obtain ⟨_, hlo, _⟩ := State.accInv_iff.1 hacc
    refine State.phaseInv_of_payload_store hacc rfl rfl rfl rfl ?_ (Memory.holdsAt_nil _ _)
    show 8 + 0 ≤ _
    omega
  | trlByte hst => exact State.phaseInv_of_trailer_store (hs.trl hst) rfl rfl rfl rfl
  | validatePass hst => exact State.phaseInv_of_frame (.inr rfl) (hs.frame (.inl hst))
  | validateFail | emitAccept | reset => exact State.phaseInv_of_hunt rfl ⟨rfl, rfl⟩
  | srcError => exact State.phaseInv_of_failed rfl

/-- Every operation keeps the canonical form of the buffer. -/
theorem Effect.buf_wf {s t : State} {i : Instr} (h : Effect s i t) (hs : s.buf.wf) : t.buf.wf := by
  cases h with
  | huntComplete _ _ hm => exact Memory.wf_putBytes hs hm
  | accEsc _ _ hpos | accCollapse _ _ hpos | accOther _ _ hpos | trlByte _ hpos => exact Memory.wf_write hs hpos
  | reset => exact Memory.wf_nil
  | huntEsc | huntSoh | huntMismatch | validatePass | validateFail | emitAccept | srcError => exact hs

/-! ### The invariant -/

theorem Effect.inv {s t : State} {i : Instr} (h : Effect s i t) (hs : s.inv) : t.inv := by
  obtain ⟨hwf, hphase, hflags, _⟩ := State.inv_iff.1 hs
  exact State.inv_iff.2 ⟨h.buf_wf hwf, h.phaseInv hphase, h.flagsInv hflags, h.diagInv⟩

/-- The invariant says nothing of the environment. -/
theorem State.inv_advance {s : State} (k : Tick) (hs : s.inv) : (s.advance k).inv := hs

theorem State.inv_noDiag {s : State} (hs : s.inv) : s.noDiag.inv := by
  obtain ⟨hwf, hphase, hflags, _⟩ := State.inv_iff.1 hs
  exact State.inv_iff.2 ⟨hwf, hphase, hflags, s.noDiag_diagQuiet.diagInv⟩

/-- Settles O51: a step is no edge, an edge that is no step, or one operation, and each keeps the invariant. -/
theorem everyStepKeepsTheInvariant : Obligations.EveryStepKeepsTheInvariant := by
  intro s s' hs h
  cases ht : s.ticks with
  | nil =>
    cases (step_of_no_ticks ht).symm.trans h
    exact hs
  | cons k rest =>
    rcases nextOp_cases ht h with ⟨_, rfl⟩ | ⟨i, _, heff⟩
    · exact State.inv_noDiag (State.inv_advance k hs)
    · exact heff.inv (State.inv_advance k hs)

/-! ### Reset -/

/-- Settles O49: the fields of `State.reset` are the values of R34, and an empty buffer reads as no byte. -/
theorem resetStateHoldsTheStatedValues : Obligations.ResetStateHoldsTheStatedValues :=
  ⟨rfl, rfl, rfl, rfl, rfl, Memory.read?_nil, rfl, rfl, rfl, rfl⟩

/-- Settles O50: HUNT at the start of a frame, both flags down, no diagnostic driven. -/
theorem resetStateMeetsTheInvariant : Obligations.ResetStateMeetsTheInvariant := by
  have hflags : State.reset.FlagsInv := by simp [State.FlagsInv, State.reset]
  have hdiag : State.reset.DiagQuiet := ⟨rfl, rfl⟩
  exact State.inv_iff.2 ⟨Memory.wf_nil, State.phaseInv_of_hunt rfl ⟨rfl, rfl⟩, hflags, hdiag.diagInv⟩

end Sys2Proof.Machine
end

section
/-!
PROOFS. What a byte selects in each state, the progress of every step under the invariant (20_memory.md R46,
30_encoding.md R66), and the hunt over a string of bytes (10_state.md R22, 40_synchronizer.md R90).
-/

namespace Sys2Proof.Machine

/-! ### The operation a byte selects -/

/-- The four operations of a byte in HUNT (R65): the byte expected, by the counter's three ranges, or another. -/
theorem decodeHunt_cases (hc : Count) (b : Byte) :
    (b = pat hc ∧ hc.toNat = 7 ∧ decodeHunt hc b = .huntComplete) ∨
      (b = pat hc ∧ hc.toNat < 4 ∧ decodeHunt hc b = .huntEsc) ∨
      (b = pat hc ∧ 4 ≤ hc.toNat ∧ hc.toNat < 7 ∧ decodeHunt hc b = .huntSoh) ∨
      (b ≠ pat hc ∧ decodeHunt hc b = .huntMismatch b) := by
  by_cases hb : b = pat hc
  · rcases Nat.lt_trichotomy hc.toNat 7 with hlt | heq | hgt
    · by_cases hesc : hc.toNat < 4
      · have hpat : b = Config.esc := by rw [hb, pat, if_pos hesc]
        exact .inr (.inl ⟨hb, hesc, by simp [decodeHunt, hpat, hesc, Nat.ne_of_lt hlt]⟩)
      · have hpat : b = Config.soh := by rw [hb, pat, if_neg hesc]
        exact .inr (.inr (.inl ⟨hb, Nat.le_of_not_lt hesc, hlt,
          by simp [decodeHunt, hpat, hesc, hlt, Nat.ne_of_lt hlt, Nat.le_of_not_lt hesc]⟩))
    · exact .inl ⟨hb, heq, by simp [decodeHunt, hb, heq]⟩
    · omega
  · refine .inr (.inr (.inr ⟨hb, ?_⟩))
    have hesc : ¬(b = Config.esc ∧ hc.toNat < 4) := by
      rintro ⟨rfl, hlt⟩
      exact hb (by rw [pat, if_pos hlt])
    have hsoh : ¬(b = Config.soh ∧ 4 ≤ hc.toNat ∧ hc.toNat < 7) := by
      rintro ⟨rfl, hle, _⟩
      exact hb (by rw [pat, if_neg (Nat.not_lt.2 hle)])
    rw [decodeHunt, if_neg (fun h => hb h.1), if_neg hesc, if_neg hsoh]

/-- The three operations of a byte in ACC (R65). -/
theorem decodeAcc_cases (run : Count) (b : Byte) :
    (b = Config.esc ∧ run.toNat = 7 ∧ decodeAcc run b = .accCollapse) ∨
      (b = Config.esc ∧ run.toNat < 7 ∧ decodeAcc run b = .accEsc) ∨
      (b ≠ Config.esc ∧ decodeAcc run b = .accOther b) := by
  by_cases hb : b = Config.esc
  · rcases Nat.lt_trichotomy run.toNat 7 with hlt | heq | hgt
    · exact .inr (.inl ⟨hb, hlt, by simp [decodeAcc, hb, hlt, Nat.ne_of_lt hlt]⟩)
    · exact .inl ⟨hb, heq, by simp [decodeAcc, hb, heq]⟩
    · omega
  · exact .inr (.inr ⟨hb, by simp [decodeAcc, hb]⟩)

/-- The operation the byte `b` selects in a reading state (R65). -/
def State.byteOp (s : State) (b : Byte) : Instr :=
  match s.st with
  | .hunt => decodeHunt s.hc b
  | .acc => decodeAcc s.run b
  | _ => .trlByte b

theorem State.byteOp_of_hunt {s : State} (hst : s.st = .hunt) (b : Byte) : s.byteOp b = decodeHunt s.hc b := by
  simp [State.byteOp, hst]

theorem State.byteOp_of_acc {s : State} (hst : s.st = .acc) (b : Byte) : s.byteOp b = decodeAcc s.run b := by
  simp [State.byteOp, hst]

theorem State.byteOp_of_trl {s : State} (hst : s.st = .trl) (b : Byte) : s.byteOp b = .trlByte b := by
  simp [State.byteOp, hst]

/-! ### What a step word selects -/

theorem select_reset (s : State) : select s (.rst1 1#1) = .next .reset := rfl

theorem select_byte {s : State} (h : s.st.reads = true) (b : Byte) :
    select s (.ev13 (mkEvent s.st .byte b)) = .next (s.byteOp b) := by
  refine select_eq_next.2 ⟨⟨s.hc, s.run, false⟩, ?_, ?_⟩ <;>
    rcases St.reads_iff.1 h with hst | hst | hst <;>
    simp [guardsAt, decode, decodeEvent, State.byteOp, hst]

theorem select_error {s : State} (h : s.st.reads = true) (b : Byte) :
    select s (.ev13 (mkEvent s.st .error b)) = .next (.srcError s.st) := by
  refine select_eq_next.2 ⟨⟨s.hc, s.run, false⟩, ?_, ?_⟩ <;>
    rcases St.reads_iff.1 h with hst | hst | hst <;>
    simp [guardsAt, decode, decodeEvent, hst]

theorem select_internal {s : State} {v : Bool} (hst : s.st = .val) (hv : frameValid s.buf = .ok v) (b : Byte) :
    select s (.ev13 (mkEvent .val .internal b)) = .next (if v then .validatePass else .validateFail) :=
  select_eq_next.2 ⟨⟨s.hc, s.run, v⟩, by simp [guardsAt, hst, hv, Except.map], by simp [decode, decodeEvent]⟩

theorem select_accept {s : State} (hst : s.st = .emit) (b : Byte) :
    select s (.ev13 (mkEvent .emit .accept b)) = .next .emitAccept :=
  select_eq_next.2 ⟨⟨s.hc, s.run, false⟩, by simp [guardsAt, hst], by simp [decode, decodeEvent]⟩

/-! ### Progress -/

/-- A string inside a written frame is read. -/
theorem Memory.exists_getBytes_of_frame {m : Memory} (h : m.writtenIn 0 404) {i n : Nat} (hn : i + n ≤ 404) :
    ∃ bs, m.getBytes i n = .ok bs :=
  Memory.getBytes_written hn fun j hj _ => h j (Nat.lt_of_lt_of_le hj hn) (Nat.zero_le j)

/-- Over a written frame the validator's checks have an answer (R46). -/
theorem exists_emOk_of_frame {m : Memory} (h : m.writtenIn 0 404) : ∃ e, emOk m = .ok e := by
  obtain ⟨bs, hbs⟩ := Memory.exists_getBytes_of_frame h (i := 396) (n := 5) (by decide)
  exact ⟨_, emOk_eq_ok.2 ⟨bs, hbs, rfl⟩⟩

theorem exists_frameValid_of_frame {m : Memory} (h : m.writtenIn 0 404) : ∃ v, frameValid m = .ok v := by
  obtain ⟨e, he⟩ := exists_emOk_of_frame h
  obtain ⟨span, hspan⟩ := Memory.exists_getBytes_of_frame h (i := 59) (n := 306) (by decide)
  obtain ⟨field, hfield⟩ := Memory.exists_getBytes_of_frame h (i := 366) (n := 2) (by decide)
  exact ⟨_, frameValid_eq_ok.2 ⟨e, _, he, crcOk_eq_ok.2 ⟨span, field, hspan, hfield, rfl⟩, rfl⟩⟩

theorem exists_corruptionOf_of_frame {m : Memory} (h : m.writtenIn 0 404) : ∃ r, corruptionOf m = .ok r := by
  obtain ⟨e, he⟩ := exists_emOk_of_frame h
  exact ⟨_, corruptionOf_eq_ok.2 ⟨e, he, rfl⟩⟩

/-- Over a written frame the fields decode: the table's rows lie inside the frame (R46, R120). -/
theorem exists_decodeFrame_of_frame {m : Memory} (h : m.writtenIn 0 404) (ts : BitVec Config.tsW) :
    ∃ r, decodeFrame m ts = .ok r := by
  have hraw (f : FrameField) : ∃ z, f.raw m = .ok z := by
    have hrow : f.row.offset + f.row.width ≤ 404 := by cases f <;> decide
    obtain ⟨bs, hbs⟩ := Memory.exists_getBytes_of_frame h hrow
    exact ⟨_, FrameField.raw_eq_ok.2 ⟨bs, hbs, rfl⟩⟩
  choose z hz using hraw
  exact ⟨_, decodeFrame_eq_ok.2 ⟨z, hz, rfl⟩⟩

/-- Under R31 the write index of a storing state is an index of the buffer, so the operation of a byte answers. -/
theorem exists_effect_byteOp {s : State} (h : s.phaseInv) (hreads : s.st.reads = true) (b : Byte) :
    ∃ t, Effect s (s.byteOp b) t := by
  rcases St.reads_iff.1 hreads with hst | hst | hst
  · rw [State.byteOp_of_hunt hst]
    rcases decodeHunt_cases s.hc b with ⟨_, hhc, hop⟩ | ⟨_, hhc, hop⟩ | ⟨_, hlo, hhi, hop⟩ | ⟨hb, hop⟩ <;> rw [hop]
    · obtain ⟨m, hm, _⟩ := Memory.putBytes_spec (m := s.buf) (i := 0) (vs := Config.startMarker) (by decide)
      exact ⟨_, .huntComplete hst hhc hm⟩
    · exact ⟨_, .huntEsc hst hhc⟩
    · exact ⟨_, .huntSoh hst hlo hhi⟩
    · exact ⟨_, .huntMismatch hst hb⟩
  · rw [State.byteOp_of_acc hst]
    obtain ⟨_, _, hhi, _⟩ := State.accInv_iff.1 (h.acc hst)
    have hpos : s.pos.toNat < 404 := by omega
    rcases decodeAcc_cases s.run b with ⟨_, hrun, hop⟩ | ⟨_, hrun, hop⟩ | ⟨hb, hop⟩ <;> rw [hop]
    · exact ⟨_, .accCollapse hst hrun hpos⟩
    · exact ⟨_, .accEsc hst hrun hpos⟩
    · exact ⟨_, .accOther hst hb hpos⟩
  · rw [State.byteOp_of_trl hst]
    obtain ⟨_, _, hpos, _⟩ := State.trlInv_iff.1 (h.trl hst)
    exact ⟨_, .trlByte hst hpos⟩

/-- Under R31 the frame in VAL is written, so the validation its checks select answers. -/
theorem exists_effect_validation {s : State} {v : Bool} (h : s.phaseInv) (hst : s.st = .val)
    (hv : frameValid s.buf = .ok v) : ∃ t, Effect s (if v then .validatePass else .validateFail) t := by
  obtain ⟨_, _, hwritten, _⟩ := h.frame (.inl hst)
  cases v with
  | true =>
    obtain ⟨r, hr⟩ := exists_decodeFrame_of_frame hwritten s.tsIn
    exact ⟨_, .validatePass hst hv hr⟩
  | false =>
    obtain ⟨r, hr⟩ := exists_corruptionOf_of_frame hwritten
    exact ⟨_, .validateFail hst hv hr⟩

/-- Under R31 whatever the ports select is an operation that answers. -/
theorem exists_effect_of_fetch {s : State} {k : Tick} {w : StepWord} (h : s.phaseInv) (hf : fetch s k = some w) :
    ∃ i t, select s w = .next i ∧ Effect (s.advance k) i t := by
  have hadv : (s.advance k).phaseInv := h
  rcases fetch_cases hf with ⟨_, rfl⟩ | ⟨_, htr, _, rfl⟩ | ⟨_, htr, _, rfl⟩ | ⟨_, hst, _, rfl⟩ | ⟨_, hst, _, rfl⟩
  · exact ⟨_, _, select_reset s, .reset⟩
  · obtain ⟨_, _, hreads, _⟩ := State.transfers_iff.1 htr
    exact ⟨_, _, select_error hreads _, .srcError rfl hreads⟩
  · obtain ⟨_, _, hreads, _⟩ := State.transfers_iff.1 htr
    obtain ⟨t, ht⟩ := exists_effect_byteOp hadv hreads s.sData
    exact ⟨_, t, select_byte hreads _, ht⟩
  · obtain ⟨_, _, hwritten, _⟩ := h.frame (.inl hst)
    obtain ⟨v, hv⟩ := exists_frameValid_of_frame hwritten
    obtain ⟨t, ht⟩ := exists_effect_validation hadv hst hv
    exact ⟨_, t, select_internal hst hv _, ht⟩
  · exact ⟨_, _, select_accept hst _, .emitAccept hst⟩

/-- Settles O52: under R31 an edge that is no step is held, and an operation that is selected answers. -/
theorem noStepStopsUnderTheInvariant : Obligations.NoStepStopsUnderTheInvariant := by
  intro s hs
  obtain ⟨_, hphase, _⟩ := State.inv_iff.1 hs
  cases ht : s.ticks with
  | nil => exact ⟨s, step_of_no_ticks ht⟩
  | cons k rest =>
    cases hf : fetch s k with
    | none => exact ⟨(s.advance k).noDiag, step_of_fetch_none ht hf hphase.not_reserved⟩
    | some w =>
      obtain ⟨i, t, hsel, heff⟩ := exists_effect_of_fetch hphase hf
      exact ⟨t, (step_of_select ht hf hsel).trans (exec_of_effect heff)⟩

/-! ### A byte from a feeding source -/

/-- The edge at which a feeding source delivers its next byte runs the operation that the byte selects. -/
theorem step_feeding_cons {s : State} (h : s.st.reads = true) (b : Byte) (bs : List Byte) :
    step (s.feeding (b :: bs)) = exec (s.byteOp b) (s.feeding bs) := by
  have htr : (s.feeding (b :: bs)).transfers (Tick.offering s.tsIn) = true :=
    State.transfers_iff.2 ⟨rfl, rfl, h, by simp⟩
  have hf : fetch (s.feeding (b :: bs)) (Tick.offering s.tsIn) =
      some (.ev13 (mkEvent (s.feeding (b :: bs)).st .byte b)) := by
    rw [fetch, if_pos htr]
    simp [Tick.offering, State.sErr, State.sData]
  have hadv : (s.feeding (b :: bs)).advance (Tick.offering s.tsIn) = s.feeding bs := by
    simp only [State.advance, htr]
    rfl
  rw [step_of_select rfl hf (select_byte h b), hadv]

/-! ### The hunt over a string of bytes -/

/-- HUNT after a byte that does not complete the marker: counted if it is the one expected (R81 to R83). -/
def State.hunted (s : State) (b : Byte) : State :=
  { s.noDiag with hc := if b = pat s.hc then s.hc + 1 else 0#3 }

theorem State.hunted_feeding (s : State) (b : Byte) (bs : List Byte) :
    (s.feeding bs).hunted b = (s.hunted b).feeding bs := rfl

/-- In HUNT a byte completes the marker, which leaves HUNT, or it is counted. -/
theorem effect_decodeHunt {s t : State} {b : Byte} (h : Effect s (decodeHunt s.hc b) t) :
    t.st = .acc ∨ ((b = pat s.hc → s.hc.toNat < 7) ∧ t = s.hunted b) := by
  rcases decodeHunt_cases s.hc b with ⟨_, _, hop⟩ | ⟨hb, hhc, hop⟩ | ⟨hb, _, hhc, hop⟩ | ⟨hb, hop⟩ <;> rw [hop] at h
  · cases h
    exact .inl rfl
  · cases h
    exact .inr ⟨fun _ => Nat.lt_trans hhc (by decide), by rw [State.hunted, if_pos hb]⟩
  · cases h
    exact .inr ⟨fun _ => hhc, by rw [State.hunted, if_pos hb]⟩
  · cases h
    exact .inr ⟨fun h => absurd h hb, by rw [State.hunted, if_neg hb]⟩

/-- The bytes consumed end with the first `hc` bytes of the start marker (R22). -/
def State.Matched (s : State) (consumed : List Byte) : Prop := Config.startMarker.take s.hc.toNat <:+ consumed

/-- `PAT` walks through the start marker (R64). -/
theorem startMarker_take_succ (hc : Count) (h : hc.toNat < 7) :
    Config.startMarker.take (hc + 1).toNat = Config.startMarker.take hc.toNat ++ [pat hc] := by
  revert hc
  decide

theorem State.Matched.hunted {s : State} {consumed : List Byte} {b : Byte} (h : s.Matched consumed)
    (hb : b = pat s.hc → s.hc.toNat < 7) : (s.hunted b).Matched (consumed ++ [b]) := by
  simp only [State.Matched, State.hunted]
  split
  · rename_i hpat
    obtain ⟨before, hbefore⟩ := h
    exact ⟨before, by rw [startMarker_take_succ _ (hb hpat), ← List.append_assoc, hbefore, hpat]⟩
  · exact List.nil_suffix

/-- R22 along a run that stays in HUNT, whatever was consumed before it. -/
theorem matched_of_run_in_hunt {s t : State} {consumed bs : List Byte} (hst : s.st = .hunt) (h : s.Matched consumed)
    (hrun : run bs.length (s.feeding bs) = .next t)
    (hstay : ∀ n u, n ≤ bs.length → run n (s.feeding bs) = .next u → u.st = .hunt) :
    t.Matched (consumed ++ bs) := by
  induction bs generalizing s consumed with
  | nil =>
    cases hrun
    simpa [State.Matched] using h
  | cons b bs ih =>
    obtain ⟨u, hstep, hrest⟩ := run_succ_eq_next hrun
    have hu : u.st = .hunt := hstay 1 u (by simp) (run_succ_of_next hstep)
    have hstay' : ∀ n v, n ≤ bs.length → run n u = .next v → v.st = .hunt := fun n v hn hv =>
      hstay (n + 1) v (Nat.succ_le_succ hn) ((run_succ_of_next hstep).trans hv)
    rw [step_feeding_cons (by simp [hst, St.reads]), State.byteOp_of_hunt hst] at hstep
    rcases effect_decodeHunt (s := s.feeding bs) (exec_eq_next.1 hstep) with hacc | ⟨hb, rfl⟩
    · simp [hu] at hacc
    · rw [State.hunted_feeding] at hrest hstay'
      simpa using ih (s := s.hunted b) hst (h.hunted hb) hrest hstay'

/-- Settles O56: the match that `hc` counts is a suffix of the bytes consumed. -/
theorem huntCounterCountsMatchedBytes : Obligations.HuntCounterCountsMatchedBytes := by
  intro s t bs hst hhc hrun hstay
  have hstart : s.Matched [] := by simp [State.Matched, hhc]
  have hmatched : t.Matched bs := matched_of_run_in_hunt hst hstart hrun hstay
  have hlen : (Config.startMarker.take t.hc.toNat).length = t.hc.toNat := by
    rw [List.length_take]
    exact Nat.min_eq_left (Nat.le_of_lt t.hc.isLt)
  have hdrop := List.suffix_iff_eq_drop.1 hmatched
  rw [hlen] at hdrop
  exact hdrop.symm

end Sys2Proof.Machine
end

section
/-!
PROOFS. The one byte a storing operation writes (40_synchronizer.md R85 to R88), and the Byte Source's side of an
operation and of a step (20_memory.md R51, R53, 70_reset_and_hazards.md R164).
-/

namespace Sys2Proof.Machine

/-! ### The byte stored -/

/-- The buffer after each of the four operations that store a byte: one write, at the `pos` before it. -/
theorem Effect.buf_eq_write {s t : State} {i : Instr} {b : Byte} (h : Effect s i t)
    (hi : ((i = .accEsc ∨ i = .accCollapse) ∧ b = Config.esc) ∨ i = .accOther b ∨ i = .trlByte b) :
    t.buf = s.buf.write s.pos.toNat b := by
  rcases hi with ⟨rfl | rfl, rfl⟩ | rfl | rfl
  · cases h with | accEsc => rfl
  · cases h with | accCollapse => rfl
  · cases h with | accOther => rfl
  · cases h with | trlByte => rfl

/-- Settles O18: the four effects write once, and a read after a write tells that index from the others. -/
theorem storingOperationsWriteOneByte : Obligations.StoringOperationsWriteOneByte := by
  intro s t i b hi h a
  rw [(exec_eq_next.1 h).buf_eq_write hi, Memory.read?_write]

/-! ### The environment's side -/

/-- Settles O22: none of the thirteen effects has a field of the environment in it. -/
theorem operationsLeaveTheEnvironment : Obligations.OperationsLeaveTheEnvironment := by
  intro s t i h
  cases exec_eq_next.1 h with
  | huntEsc | huntSoh | huntComplete | huntMismatch | accEsc | accCollapse | accOther | trlByte | validatePass
  | validateFail | emitAccept | srcError | reset => exact ⟨rfl, rfl, rfl⟩

/-- The environment's side of a step is that of its edge, whether the edge runs an operation or none. -/
theorem environment_of_step {s s' : State} {k : Tick} {rest : List Tick} (ht : s.ticks = k :: rest)
    (h : step s = .next s') : s'.stream = (s.advance k).stream ∧ s'.ticks = rest := by
  have hrest : (s.advance k).ticks = rest := by rw [State.advance_ticks, ht, List.tail_cons]
  rcases nextOp_cases ht h with ⟨_, rfl⟩ | ⟨i, _, heff⟩
  · exact ⟨rfl, hrest⟩
  · obtain ⟨hstream, hticks, _⟩ := operationsLeaveTheEnvironment _ _ i (exec_of_effect heff)
    exact ⟨hstream, hticks.trans hrest⟩

/-- A transfer takes the head of the stream: it needs a result on offer, so there is one to take. -/
theorem State.exists_stream_eq_cons_of_transfers {s : State} {k : Tick} (h : s.transfers k = true) :
    ∃ iw, s.stream = iw :: (s.advance k).stream := by
  obtain ⟨_, _, _, hne⟩ := State.transfers_iff.1 h
  obtain ⟨iw, later, hs⟩ := List.exists_cons_of_ne_nil hne
  exact ⟨iw, by rw [State.advance_stream, if_pos h, hs, List.tail_cons]⟩

/-- Settles O29: a step leaves the stream as its edge does, which takes the head where there is a transfer. -/
theorem streamIsConsumedInOrder : Obligations.StreamIsConsumedInOrder := by
  intro s s' k rest ht h
  obtain ⟨hstream, hticks⟩ := environment_of_step ht h
  refine ⟨hticks, ?_⟩
  rw [hstream]
  cases htr : s.transfers k with
  | true => exact .inl ⟨rfl, State.exists_stream_eq_cons_of_transfers htr⟩
  | false => exact .inr ⟨rfl, by simp [htr]⟩

end Sys2Proof.Machine
end

section
/-!
PROOFS. Decode and encode are inverse under the guards (30_encoding.md R62 to R66), and what the operations answer
where their state and guards do not select them.
-/

namespace Sys2Proof.Machine

/-! ### The decode of an event, kind by kind -/

theorem decode_huntByte (g : Guards) (b : Byte) :
    decode g (.ev13 (mkEvent .hunt .byte b)) = .ok (decodeHunt g.hc b) := by simp [decode, decodeEvent]

theorem decode_accByte (g : Guards) (b : Byte) :
    decode g (.ev13 (mkEvent .acc .byte b)) = .ok (decodeAcc g.run b) := by simp [decode, decodeEvent]

theorem decode_trlByte (g : Guards) (b : Byte) :
    decode g (.ev13 (mkEvent .trl .byte b)) = .ok (.trlByte b) := by simp [decode, decodeEvent]

theorem decode_error (g : Guards) {q : St} (hq : q.reads = true) (d : Byte) :
    decode g (.ev13 (mkEvent q .error d)) = .ok (.srcError q) := by
  rcases St.reads_iff.1 hq with rfl | rfl | rfl <;> simp [decode, decodeEvent]

theorem decode_internal (g : Guards) (d : Byte) :
    decode g (.ev13 (mkEvent .val .internal d)) = .ok (if g.frameValid then .validatePass else .validateFail) := by
  simp [decode, decodeEvent]

theorem decode_accept (g : Guards) (d : Byte) :
    decode g (.ev13 (mkEvent .emit .accept d)) = .ok .emitAccept := by simp [decode, decodeEvent]

/-! ### The byte and the guard of each operation select it -/

theorem pat_of_lt {hc : Count} (h : hc.toNat < 4) : pat hc = Config.esc := if_pos h

theorem pat_of_ge {hc : Count} (h : 4 ≤ hc.toNat) : pat hc = Config.soh := if_neg (Nat.not_lt.2 h)

theorem decodeHunt_esc {hc : Count} (h : hc.toNat < 4) : decodeHunt hc Config.esc = .huntEsc := by
  rcases decodeHunt_cases hc Config.esc with ⟨_, hhc, _⟩ | ⟨_, _, hop⟩ | ⟨_, hlo, _, _⟩ | ⟨hb, _⟩
  · omega
  · exact hop
  · omega
  · exact absurd (pat_of_lt h).symm hb

theorem decodeHunt_soh {hc : Count} (hlo : 4 ≤ hc.toNat) (hhi : hc.toNat < 7) :
    decodeHunt hc Config.soh = .huntSoh := by
  rcases decodeHunt_cases hc Config.soh with ⟨_, hhc, _⟩ | ⟨_, hhc, _⟩ | ⟨_, _, _, hop⟩ | ⟨hb, _⟩
  · omega
  · omega
  · exact hop
  · exact absurd (pat_of_ge hlo).symm hb

theorem decodeHunt_last {hc : Count} (h : hc.toNat = 7) : decodeHunt hc Config.soh = .huntComplete := by
  rcases decodeHunt_cases hc Config.soh with ⟨_, _, hop⟩ | ⟨_, hhc, _⟩ | ⟨_, _, hhc, _⟩ | ⟨hb, _⟩
  · exact hop
  · omega
  · omega
  · exact absurd (pat_of_ge (by omega)).symm hb

theorem decodeHunt_mismatch {hc : Count} {b : Byte} (h : b ≠ pat hc) : decodeHunt hc b = .huntMismatch b := by
  rcases decodeHunt_cases hc b with ⟨hb, _⟩ | ⟨hb, _⟩ | ⟨hb, _⟩ | ⟨_, hop⟩
  · exact absurd hb h
  · exact absurd hb h
  · exact absurd hb h
  · exact hop

theorem decodeAcc_esc {run : Count} (h : run.toNat < 7) : decodeAcc run Config.esc = .accEsc := by
  rcases decodeAcc_cases run Config.esc with ⟨_, hrun, _⟩ | ⟨_, _, hop⟩ | ⟨hb, _⟩
  · omega
  · exact hop
  · exact absurd rfl hb

theorem decodeAcc_eighth {run : Count} (h : run.toNat = 7) : decodeAcc run Config.esc = .accCollapse := by
  rcases decodeAcc_cases run Config.esc with ⟨_, _, hop⟩ | ⟨_, hrun, _⟩ | ⟨hb, _⟩
  · exact hop
  · omega
  · exact absurd rfl hb

theorem decodeAcc_other {run : Count} {b : Byte} (h : b ≠ Config.esc) : decodeAcc run b = .accOther b := by
  rcases decodeAcc_cases run b with ⟨hb, _⟩ | ⟨hb, _⟩ | ⟨_, hop⟩
  · exact absurd hb h
  · exact absurd hb h
  · exact hop

/-- Settles O1: the word of an operation carries its state and kind, and the byte with the guard selects it among
the operations of that state. -/
theorem decodeOfEncodeIsTheOperation : Obligations.DecodeOfEncodeIsTheOperation := by
  intro g i hwf hg
  cases i with
  | huntEsc => rw [encode, decode_huntByte, decodeHunt_esc (of_decide_eq_true hg)]
  | huntSoh =>
    obtain ⟨hlo, hhi⟩ := of_decide_eq_true hg
    rw [encode, decode_huntByte, decodeHunt_soh hlo hhi]
  | huntComplete => rw [encode, decode_huntByte, decodeHunt_last (of_decide_eq_true hg)]
  | huntMismatch b => rw [encode, decode_huntByte, decodeHunt_mismatch (of_decide_eq_true hg)]
  | accEsc => rw [encode, decode_accByte, decodeAcc_esc (of_decide_eq_true hg)]
  | accCollapse => rw [encode, decode_accByte, decodeAcc_eighth (of_decide_eq_true hg)]
  | accOther b => rw [encode, decode_accByte, decodeAcc_other (of_decide_eq_true hwf)]
  | trlByte b => exact decode_trlByte g b
  | validatePass =>
    have hv : g.frameValid = true := hg
    rw [encode, decode_internal, if_pos hv]
  | validateFail =>
    have hv : g.frameValid = false := by simpa [Instr.guardHolds] using hg
    rw [encode, decode_internal, hv, if_neg Bool.false_ne_true]
  | emitAccept => exact decode_accept g _
  | srcError src => exact decode_error g hwf _
  | reset => rfl

/-! ### The operation of an enabled event -/

/-- The operation `i` applies to the event word `ev` under the guards `g` (R65): its fields are admitted, its guard
holds, and `ev` is its word. -/
def Applies (g : Guards) (ev : EventWord) (i : Instr) : Prop :=
  i.wellFormed = true ∧ i.guardHolds g = true ∧ encode i = .ev13 ev

/-- An operation that applies to an event is the one it decodes to. -/
theorem Applies.decodeEvent_eq {g : Guards} {ev : EventWord} {i : Instr} (h : Applies g ev i) :
    decodeEvent g ev = .ok i := by
  obtain ⟨hwf, hg, hword⟩ := h
  have hdec := decodeOfEncodeIsTheOperation g i hwf hg
  rwa [hword] at hdec

theorem exists_applies_huntByte (g : Guards) (b : Byte) : ∃ i : Instr, Applies g (mkEvent .hunt .byte b) i := by
  rcases decodeHunt_cases g.hc b with ⟨hb, hhc, _⟩ | ⟨hb, hhc, _⟩ | ⟨hb, hlo, hhi, _⟩ | ⟨hb, _⟩
  · rw [hb, pat_of_ge (by omega)]
    exact ⟨.huntComplete, rfl, decide_eq_true hhc, rfl⟩
  · rw [hb, pat_of_lt hhc]
    exact ⟨.huntEsc, rfl, decide_eq_true hhc, rfl⟩
  · rw [hb, pat_of_ge hlo]
    exact ⟨.huntSoh, rfl, decide_eq_true ⟨hlo, hhi⟩, rfl⟩
  · exact ⟨.huntMismatch b, rfl, decide_eq_true hb, rfl⟩

theorem exists_applies_accByte (g : Guards) (b : Byte) : ∃ i : Instr, Applies g (mkEvent .acc .byte b) i := by
  rcases decodeAcc_cases g.run b with ⟨rfl, hrun, _⟩ | ⟨rfl, hrun, _⟩ | ⟨hb, _⟩
  · exact ⟨.accCollapse, rfl, decide_eq_true hrun, rfl⟩
  · exact ⟨.accEsc, rfl, decide_eq_true hrun, rfl⟩
  · exact ⟨.accOther b, decide_eq_true hb, rfl, rfl⟩

theorem exists_applies_byte (g : Guards) {q : St} (hq : q.reads = true) (b : Byte) :
    ∃ i : Instr, Applies g (mkEvent q .byte b) i := by
  rcases St.reads_iff.1 hq with rfl | rfl | rfl
  · exact exists_applies_huntByte g b
  · exact exists_applies_accByte g b
  · exact ⟨.trlByte b, rfl, rfl, rfl⟩

theorem exists_applies_internal (g : Guards) : ∃ i : Instr, Applies g (mkEvent .val .internal 0#8) i := by
  cases hv : g.frameValid
  · exact ⟨.validateFail, rfl, by simp [Instr.guardHolds, hv], rfl⟩
  · exact ⟨.validatePass, rfl, hv, rfl⟩

/-- Settles O2: for each enabled event there is an operation that applies, and one that applies is the decode. -/
theorem enabledEventHasExactlyOneOperation : Obligations.EnabledEventHasExactlyOneOperation := by
  intro g ev henabled
  have happlies : ∃ i : Instr, Applies g ev i := by
    rw [← mkEvent_fields ev]
    rcases henabled with ⟨hk, hq⟩ | ⟨hd, ⟨hk, hq⟩ | ⟨hk, hq⟩ | ⟨hk, hq⟩⟩
    · rw [hk]
      exact exists_applies_byte g hq _
    · rw [hk, hd]
      exact ⟨.srcError (evState ev), hq, rfl, rfl⟩
    · rw [hk, hd, hq]
      exact exists_applies_internal g
    · rw [hk, hd, hq]
      exact ⟨.emitAccept, rfl, rfl, rfl⟩
  obtain ⟨i, hi⟩ := happlies
  refine ⟨i, hi.decodeEvent_eq, hi, fun j hwf hg hword => ?_⟩
  have hj : Applies g ev j := ⟨hwf, hg, hword⟩
  exact Except.ok.inj (hj.decodeEvent_eq.symm.trans hi.decodeEvent_eq)

/-! ### Events that are not enabled -/

/-- Settles O3: state by state, the kinds that R63's table does not list. -/
theorem eventNotEnabledIsRejected : Obligations.EventNotEnabledIsRejected := by
  intro g ev hread hinternal haccept
  unfold decodeEvent
  cases hq : evState ev with
  | hunt | acc | trl =>
    cases hk : evKind ev with
    | byte | error => simp [hq, hk, St.reads] at hread
    | internal | accept => rfl
  | val =>
    cases hk : evKind ev with
    | internal => exact absurd ⟨hk, hq⟩ hinternal
    | byte | error | accept => rfl
  | emit =>
    cases hk : evKind ev with
    | accept => exact absurd ⟨hk, hq⟩ haccept
    | byte | error | internal => rfl
  | failed | reserved6 | reserved7 => cases evKind ev <;> rfl

/-! ### Stops -/

/-- In a reserved state every guard is the fault of R66. -/
theorem exec_of_reserved {s : State} (h : s.st.isReserved = true) {i : Instr} (hi : i ≠ .reset) :
    exec i s = .fault .reservedState := by
  cases i with
  | reset => exact absurd rfl hi
  | huntEsc | huntSoh | huntComplete | huntMismatch | accEsc | accCollapse | accOther | trlByte | validatePass
  | validateFail | emitAccept | srcError => exact guarded_reserved h _ _

/-- In a reserved state the ports select nothing but a reset (R63). -/
theorem fetch_of_reserved {s : State} {k : Tick} (h : s.st.isReserved = true) (hrst : k.rst = false) :
    fetch s k = none := by
  cases hst : s.st with
  | reserved6 | reserved7 => simp [fetch, State.transfers, State.sReady, St.reads, hrst, hst]
  | hunt | acc | trl | val | emit | failed => simp [hst, St.isReserved] at h

/-- Settles O35: the guard of an operation and the idle edge look at the reserved codes first. -/
theorem reservedStateIsAFault : Obligations.ReservedStateIsAFault := by
  intro s hst
  have hres : s.st.isReserved = true := by rcases hst with hst | hst <;> rw [hst] <;> rfl
  refine ⟨fun i hi => exec_of_reserved hres hi, fun k rest ht hrst => ?_⟩
  simp [step, ht, fetch_of_reserved hres hrst, idle, hres]

/-- The guards that the decode reads are those of the state; in VAL the frame is looked at (R65). -/
theorem guardsAt_event_eq_ok {s : State} {ev : EventWord} {g : Guards} (h : guardsAt s (.ev13 ev) = .ok g) :
    g.hc = s.hc ∧ g.run = s.run ∧ (s.st = .val → frameValid s.buf = .ok g.frameValid) := by
  simp only [guardsAt] at h
  split at h
  · obtain ⟨v, hv, rfl⟩ := except_map_eq_ok.1 h
    exact ⟨rfl, rfl, fun _ => hv⟩
  · rename_i hval
    cases h
    exact ⟨rfl, rfl, fun hst => absurd hst hval⟩

/-- A guard that does not hold refuses (I11). -/
theorem guarded_refused {s : State} {p : Prop} [Decidable p] (hres : s.st.isReserved = false) (hp : ¬p) (a : Answer) :
    guarded s (decide p) a = .refused .notEnabled := by
  rw [decide_eq_false hp]
  exact guarded_not_selected hres a

/-- A validation is refused outside VAL, and in VAL where the frame is judged the other way. -/
theorem whenFrame_refused {s : State} {v w : Bool} (hres : s.st.isReserved = false)
    (hv : s.st = .val → frameValid s.buf = .ok v) (h : ¬(s.st = .val ∧ v = w)) (a : Answer) :
    whenFrame s w a = .refused .notEnabled := by
  by_cases hst : s.st = .val
  · have hne : (v == w) = false := beq_eq_false_iff_ne.2 fun hvw => h ⟨hst, hvw⟩
    simp only [whenFrame, hv hst, orFault_ok, hne, guarded_not_selected hres]
    rw [decide_eq_true hst, guarded_true hres]
  · exact guarded_refused hres hst _

/-- Settles O36: the condition that `exec` checks for an operation is that its word names the state, its fields are
admitted and its guard holds. -/
theorem operationNotSelectedIsRefused : Obligations.OperationNotSelectedIsRefused := by
  intro s i ev g hword hres hguards hsel
  obtain ⟨hhc, hrun, hframe⟩ := guardsAt_event_eq_ok hguards
  cases i with
  | huntEsc | huntSoh | huntComplete | huntMismatch b =>
    cases hword
    refine guarded_refused hres (fun h => hsel ?_) _
    simpa [Instr.wellFormed, Instr.guardHolds, hhc] using h
  | accEsc | accCollapse | accOther b | trlByte b | emitAccept =>
    cases hword
    refine guarded_refused hres (fun h => hsel ?_) _
    simpa [Instr.wellFormed, Instr.guardHolds, hrun] using h
  | validatePass | validateFail =>
    cases hword
    refine whenFrame_refused hres hframe (fun h => hsel ?_) _
    simpa [Instr.wellFormed, Instr.guardHolds] using h
  | srcError src =>
    cases hword
    have hfalse : (decide (s.st = src) && src.reads) = false := by
      simpa [Instr.wellFormed, Instr.guardHolds] using hsel
    rw [exec, execSrcError, hfalse]
    exact guarded_not_selected hres _
  | reset => cases hword

end Sys2Proof.Machine
end

section
/-!
PROOFS. The ports after a decode (42_field_demux.md R120 to R132).
-/

namespace Sys2Proof.Machine

/-- An unsigned port as wide as its field holds the integer of the field's bytes. -/
theorem toNat_ofInt_beU {w : Nat} {bs : List Byte} (h : 8 * bs.length = w) :
    (BitVec.ofInt w (beU bs)).toNat = beU bs := by
  have hlt : beU bs < 2 ^ w := by
    rw [← h, Nat.pow_mul]
    exact beU_lt bs
  rw [BitVec.ofInt_natCast, BitVec.toNat_ofNat, Nat.mod_eq_of_lt hlt]

/-- A signed port as wide as its field holds the integer of the field's bytes. -/
theorem toInt_ofInt_beS {w : Nat} {bs : List Byte} (h : 8 * bs.length = w) :
    (BitVec.ofInt w (beS bs)).toInt = beS bs := by
  subst h
  cases bs with
  | nil => rfl
  | cons b bs =>
    obtain ⟨_, _, _, hlo, hhi⟩ := bigEndianIntegersAreInRange b bs
    exact BitVec.toInt_ofInt_eq_self (by simp) hlo hhi

/-- The record made of the integers of field bytes holds them: each port is as wide as its row. -/
theorem Measurement.raw_ofRaw {z : FrameField → Int} {ts : BitVec Config.tsW} {f : FrameField} {bs : List Byte}
    (hlen : bs.length = f.row.width) (hz : z f = f.ofBytes bs) : (Measurement.ofRaw z ts).raw f = f.ofBytes bs := by
  have hbits : 8 * bs.length = 8 * f.row.width := congrArg (8 * ·) hlen
  cases f with
  | secondsIndex | voltageL1 | voltageL2 | voltageL3 =>
    show ((BitVec.ofInt _ (z _)).toNat : Int) = _
    rw [hz]
    exact congrArg Nat.cast (toNat_ofInt_beU hbits)
  | energyCount | power | powerL1 | powerL2 | powerL3 =>
    show (BitVec.ofInt _ (z _)).toInt = _
    rw [hz]
    exact toInt_ofInt_beS hbits

/-- Settles O45: `Decode` answers where the nine fields are read, and the record is made of their integers. -/
theorem decodedPortsHoldTheFieldIntegers : Obligations.DecodedPortsHoldTheFieldIntegers := by
  intro m ts r h
  obtain ⟨z, hz, rfl⟩ := decodeFrame_eq_ok.1 h
  refine ⟨rfl, fun f => ?_⟩
  obtain ⟨bs, hbs, hzf⟩ := FrameField.raw_eq_ok.1 (hz f)
  obtain ⟨hlen, hread⟩ := Memory.getBytes_eq_ok.1 hbs
  have hholds : m.holdsAt f.row.offset bs := fun k hk => (hread k (hlen ▸ hk)).2
  exact ⟨bs, hlen, hholds, Measurement.raw_ofRaw hlen hzf⟩

end Sys2Proof.Machine
end

section
/-!
PROOFS. The validation that is always enabled in VAL (30_encoding.md R63, 70_reset_and_hazards.md R169).
-/

namespace Sys2Proof.Machine

/-- In VAL, once the validation has finished, the ports select the INTERNAL event (R170). -/
theorem fetch_of_val {s : State} {k : Tick} (hst : s.st = .val) (hrst : k.rst = false) (hdone : k.valDone = true) :
    fetch s k = some (.ev13 (mkEvent .val .internal 0#8)) := by
  simp [fetch, State.transfers, State.sReady, St.reads, hst, hrst, hdone]

/-- Settles O53: under R31 the frame in VAL is written, so its checks have an answer, and the validation they select
has an effect. -/
theorem validationIsAlwaysEnabled : Obligations.ValidationIsAlwaysEnabled := by
  intro s k rest hs hst ht hrst hdone
  obtain ⟨_, hphase, _⟩ := State.inv_iff.1 hs
  obtain ⟨_, _, hwritten, _⟩ := hphase.frame (.inl hst)
  obtain ⟨v, hv⟩ := exists_frameValid_of_frame hwritten
  have hfetch := fetch_of_val hst hrst hdone
  have hsel := select_internal hst hv 0#8
  obtain ⟨t, heff⟩ := exists_effect_validation (s := s.advance k) hphase hst hv
  have hop : s.nextOp = some (if v then .validatePass else .validateFail) := by
    simp [State.nextOp, ht, hfetch, hsel]
  refine ⟨t, (step_of_select ht hfetch hsel).trans (exec_of_effect heff), ?_⟩
  cases v with
  | true =>
    cases heff
    exact .inl ⟨hop, rfl⟩
  | false =>
    cases heff
    exact .inr ⟨hop, rfl⟩

end Sys2Proof.Machine
end

section
/-!
PROOFS. What consuming a string of bytes makes of a state, byte by byte, and a frame buffer that grows by strings;
the start marker as such a string (40_synchronizer.md R81 to R84).
-/

namespace Sys2Proof.Machine

/-! ### Bytes consumed -/

/-- `Feeds s bs t`: consuming `bs`, byte by byte, takes `s` to `t`. Each byte runs the operation it selects in a
reading state; `Feeds.run_eq` ties it to the edges of a feeding source. -/
inductive Feeds : State → List Byte → State → Prop
  | nil (s : State) : Feeds s [] s
  | cons {s u t : State} {b : Byte} {bs : List Byte} (hreads : s.st.reads = true) (hb : Effect s (s.byteOp b) u)
      (hbs : Feeds u bs t) : Feeds s (b :: bs) t

/-- What the Byte Source has still to deliver changes no effect. -/
theorem Effect.feeding {s t : State} {i : Instr} (h : Effect s i t) (bs : List Byte) :
    Effect (s.feeding bs) i (t.feeding bs) := by
  cases h with
  | huntEsc hst hhc => exact .huntEsc hst hhc
  | huntSoh hst hlo hhi => exact .huntSoh hst hlo hhi
  | huntComplete hst hhc hm => exact .huntComplete hst hhc hm
  | huntMismatch hst hb => exact .huntMismatch hst hb
  | accEsc hst hrun hpos => exact .accEsc hst hrun hpos
  | accCollapse hst hrun hpos => exact .accCollapse hst hrun hpos
  | accOther hst hb hpos => exact .accOther hst hb hpos
  | trlByte hst hpos => exact .trlByte hst hpos
  | validatePass hst hv hr => exact .validatePass hst hv hr
  | validateFail hst hv hr => exact .validateFail hst hv hr
  | emitAccept hst => exact .emitAccept hst
  | srcError hst hq => exact .srcError hst hq
  | reset => exact .reset

/-- The edges of a feeding source consume its bytes. -/
theorem Feeds.run_eq {s t : State} {bs : List Byte} (h : Feeds s bs t) : run bs.length (s.feeding bs) = .next t := by
  induction h with
  | nil s => rfl
  | @cons s u t b bs hreads hb _ ih =>
    have hstep := (step_feeding_cons hreads b bs).trans (exec_of_effect (hb.feeding bs))
    exact (run_succ_of_next hstep).trans ih

/-- The bytes of the source are all that is consumed. -/
theorem Feeds.environment {s t : State} {bs : List Byte} (h : Feeds s bs t) :
    t.stream = s.stream ∧ t.ticks = s.ticks := by
  induction h with
  | nil s => exact ⟨rfl, rfl⟩
  | cons _ hb _ ih =>
    obtain ⟨hstream, hticks, _⟩ := operationsLeaveTheEnvironment _ _ _ (exec_of_effect hb)
    obtain ⟨hstream', hticks'⟩ := ih
    exact ⟨hstream'.trans hstream, hticks'.trans hticks⟩

theorem Feeds.append {s u t : State} {xs ys : List Byte} (hxs : Feeds s xs u) (hys : Feeds u ys t) :
    Feeds s (xs ++ ys) t := by
  induction hxs with
  | nil => exact hys
  | cons hreads hb _ ih => exact .cons hreads hb (ih hys)

/-! ### A buffer that grows -/

/-- `m'` holds `bs` from `a` on and has below `a` what `m` has. -/
def Memory.Extends (m m' : Memory) (a : Nat) (bs : List Byte) : Prop :=
  m'.holdsAt a bs ∧ ∀ i, i < a → m'.read? i = m.read? i

theorem Memory.Extends.refl_of_holdsAt {m : Memory} {a : Nat} {bs : List Byte} (h : m.holdsAt a bs) :
    m.Extends m a bs := ⟨h, fun _ _ => rfl⟩

theorem Memory.Extends.nil (m : Memory) (a : Nat) : m.Extends m a [] := .refl_of_holdsAt (m.holdsAt_nil a)

theorem Memory.holdsAt_append {m : Memory} {a : Nat} {xs ys : List Byte} (hxs : m.holdsAt a xs)
    (hys : m.holdsAt (a + xs.length) ys) : m.holdsAt a (xs ++ ys) := by
  intro k hk
  rcases Nat.lt_or_ge k xs.length with hlt | hge
  · rw [hxs k hlt, List.getElem?_append_left hlt]
  · have hread := hys (k - xs.length) (by rw [List.length_append] at hk; omega)
    rwa [show a + xs.length + (k - xs.length) = a + k by omega, ← List.getElem?_append_right hge] at hread

/-- A buffer extended right behind what extended it before. -/
theorem Memory.Extends.trans {m m' m'' : Memory} {a c : Nat} {xs ys : List Byte} (hxs : m.Extends m' a xs)
    (hys : m'.Extends m'' c ys) (hc : a + xs.length = c) : m.Extends m'' a (xs ++ ys) := by
  subst hc
  obtain ⟨hholds, hbelow⟩ := hxs
  obtain ⟨hholds', hbelow'⟩ := hys
  refine ⟨Memory.holdsAt_append (fun k hk => ?_) hholds', fun i hi => ?_⟩
  · rw [hbelow' _ (by omega), hholds k hk]
  · rw [hbelow' i (by omega), hbelow i hi]

theorem Memory.Extends.write (m : Memory) (a : Nat) (b : Byte) : m.Extends (m.write a b) a [b] :=
  ⟨Memory.holdsAt_write_snoc b (m.holdsAt_nil a) rfl, fun _ hi => Memory.read?_write_of_ne b (Nat.ne_of_lt hi)⟩

theorem Memory.Extends.left {m m' : Memory} {a : Nat} {xs ys : List Byte} (h : m.Extends m' a (xs ++ ys)) :
    m.Extends m' a xs :=
  ⟨Memory.holdsAt_piece (pre := []) h.1, h.2⟩

/-! ### The start marker -/

/-- What is left of the start marker begins with the byte the hunt expects (R64). -/
theorem startMarker_drop (hc : Count) (h : hc.toNat < 7) :
    Config.startMarker.drop hc.toNat = pat hc :: Config.startMarker.drop (hc + 1).toNat := by
  revert hc
  decide

/-- ACC at the start of a payload (R84). -/
structure State.AtPayload (s : State) : Prop where
  st_eq : s.st = .acc
  run_eq : s.run = 0#3
  pos_eq : s.pos = 8#9
  marker : s.buf.holdsAt 0 Config.startMarker

/-- The eighth byte of the marker captures it (R84). -/
theorem exists_effect_marker_last {s : State} (hst : s.st = .hunt) (hhc : s.hc.toNat = 7) :
    ∃ t, Effect s (s.byteOp Config.soh) t ∧ t.AtPayload := by
  obtain ⟨m, hm, hholds, _⟩ := Memory.putBytes_spec (m := s.buf) (i := 0) (vs := Config.startMarker) (by decide)
  rw [State.byteOp_of_hunt hst, decodeHunt_last hhc]
  exact ⟨_, .huntComplete hst hhc hm, rfl, rfl, rfl, hholds⟩

/-- A byte of the marker that the hunt expects is counted (R81, R82). -/
theorem effect_marker_byte {s : State} (hst : s.st = .hunt) (hhc : s.hc.toNat < 7) :
    Effect s (s.byteOp (pat s.hc)) { s.noDiag with hc := s.hc + 1 } := by
  rw [State.byteOp_of_hunt hst]
  rcases Nat.lt_or_ge s.hc.toNat 4 with hlt | hge
  · rw [pat_of_lt hlt, decodeHunt_esc hlt]
    exact .huntEsc hst hlt
  · rw [pat_of_ge hge, decodeHunt_soh hge hhc]
    exact .huntSoh hst hge hhc

/-- From a hunt that has matched `hc` bytes the rest of the marker leads to the payload (R84, R90). -/
theorem exists_feeds_marker {s : State} {k : Nat} (hst : s.st = .hunt) (hk : s.hc.toNat + k = 7) :
    ∃ t, Feeds s (Config.startMarker.drop s.hc.toNat) t ∧ t.AtPayload := by
  have hreads : s.st.reads = true := St.reads_iff.2 (.inl hst)
  induction k generalizing s with
  | zero =>
    obtain ⟨t, heff, hpayload⟩ := exists_effect_marker_last hst hk
    rw [show s.hc.toNat = 7 from hk]
    exact ⟨t, .cons hreads heff (.nil t), hpayload⟩
  | succ k ih =>
    have hlt : s.hc.toNat < 7 := by omega
    have hnext := Count.toNat_next hlt
    obtain ⟨t, hfeeds, hpayload⟩ :=
      ih (s := { s.noDiag with hc := s.hc + 1 }) hst (by show (s.hc + 1).toNat + k = 7; omega) hreads
    rw [startMarker_drop s.hc hlt]
    exact ⟨t, .cons hreads (effect_marker_byte hst hlt) hfeeds, hpayload⟩

end Sys2Proof.Machine
end

section
/-!
PROOFS. The payload: accumulation is the de-stuffing by maximal runs (30_encoding.md R67, R68, 40_synchronizer.md
R85 to R87).
-/

namespace Sys2Proof.Machine

/-! ### The length of a run -/

/-- How many bytes a run of `n` bytes `0x1B` has written (R68). -/
def runWritten (n : Nat) : Nat := 4 * (n / 8) + n % 8

theorem destuff_nil (n : Nat) : destuff n [] = List.replicate (runWritten n) Config.esc := rfl

theorem destuff_cons_esc (n : Nat) (bs : List Byte) : destuff n (Config.esc :: bs) = destuff (n + 1) bs := by
  rw [destuff, if_pos rfl]

theorem destuff_cons_other {b : Byte} (hb : b ≠ Config.esc) (n : Nat) (bs : List Byte) :
    destuff n (b :: bs) = List.replicate (runWritten n) Config.esc ++ [b] ++ destuff 0 bs := by
  rw [destuff, if_neg hb, List.append_assoc]
  rfl

/-- A byte of a run that does not complete eight adds one byte (R85). -/
theorem runWritten_succ {n : Nat} (h : n % 8 < 7) : runWritten (n + 1) = runWritten n + 1 := by
  unfold runWritten
  omega

/-- The byte that completes eight takes three away (R86). -/
theorem runWritten_collapse {n : Nat} (h : n % 8 = 7) : runWritten (n + 1) + 3 = runWritten n := by
  unfold runWritten
  omega

/-! ### Accumulation -/

/-- Accumulation inside a run of `n` bytes `0x1B` that began at `a`, in a buffer that was `m` when it began. TRL is
the state once the payload is full (R85, R87). -/
structure State.InRun (s : State) (m : Memory) (a n : Nat) : Prop where
  st_eq : s.st = if s.pos.toNat = 396 then .trl else .acc
  run_eq : s.run.toNat = n % 8
  pos_eq : s.pos.toNat = a + runWritten n
  buf_eq : m.Extends s.buf a (List.replicate (runWritten n) Config.esc)

theorem State.InRun.st_acc {s : State} {m : Memory} {a n : Nat} (h : s.InRun m a n) (hpos : s.pos.toNat < 396) :
    s.st = .acc := by
  rw [h.st_eq, if_neg (Nat.ne_of_lt hpos)]

/-- One byte `0x1B` stored at the end of a run. -/
theorem State.InRun.extends_esc {s : State} {m : Memory} {a n : Nat} (h : s.InRun m a n) :
    m.Extends (s.buf.write s.pos.toNat Config.esc) a (List.replicate (runWritten n + 1) Config.esc) := by
  rw [List.replicate_succ']
  exact h.buf_eq.trans (.write _ _ _) (by rw [List.length_replicate, h.pos_eq])

/-- A byte `0x1B` makes the run longer by one (R85, R86). -/
theorem State.InRun.exists_effect_esc {s : State} {m : Memory} {a n : Nat} (h : s.InRun m a n)
    (hpos : s.pos.toNat < 396) : ∃ t, Effect s (s.byteOp Config.esc) t ∧ t.InRun m a (n + 1) := by
  have hst := h.st_acc hpos
  have hrunEq := h.run_eq
  have hposEq := h.pos_eq
  rw [State.byteOp_of_acc hst]
  rcases Nat.lt_or_ge (n % 8) 7 with hlt | hge
  · have hrun : s.run.toNat < 7 := by omega
    have hwritten := runWritten_succ hlt
    rw [decodeAcc_esc hrun]
    refine ⟨_, .accEsc hst hrun (by omega), rfl, ?_, ?_, ?_⟩
    · exact (Count.toNat_next hrun).trans (by omega)
    · exact (Index.toNat_next (by omega)).trans (by omega)
    · rw [hwritten]
      exact h.extends_esc
  · have hrun : s.run.toNat = 7 := by omega
    have hwritten := runWritten_collapse (n := n) (by omega)
    have hback : (s.pos + 1 - 4#9).toNat = s.pos.toNat - 3 := Index.toNat_rewind (by omega) (by omega)
    rw [decodeAcc_eighth hrun]
    refine ⟨_, .accCollapse hst hrun (by omega), ?_, ?_, ?_, ?_⟩
    · show s.st = if (s.pos + 1 - 4#9).toNat = 396 then .trl else .acc
      rw [hst, if_neg (by omega)]
    · show 0 = (n + 1) % 8
      omega
    · exact hback.trans (by omega)
    · have hsplit : runWritten n + 1 = runWritten (n + 1) + 4 := by omega
      have hstore := h.extends_esc
      rw [hsplit, List.replicate_add] at hstore
      exact hstore.left

/-- Any other byte ends the run and is copied; a run of length 0 begins behind it (R87). -/
theorem State.InRun.exists_effect_other {s : State} {m : Memory} {a n : Nat} {b : Byte} (h : s.InRun m a n)
    (hpos : s.pos.toNat < 396) (hb : b ≠ Config.esc) :
    ∃ t, Effect s (s.byteOp b) t ∧ t.InRun t.buf (a + runWritten n + 1) 0 ∧
      m.Extends t.buf a (List.replicate (runWritten n) Config.esc ++ [b]) := by
  have hst := h.st_acc hpos
  have hposEq := h.pos_eq
  rw [State.byteOp_of_acc hst, decodeAcc_other hb]
  refine ⟨_, .accOther hst hb (by omega), ⟨rfl, rfl, ?_, .nil _ _⟩, ?_⟩
  · exact (Index.toNat_next (by omega)).trans (by rw [hposEq]; rfl)
  · exact h.buf_eq.trans (.write _ _ _) (by rw [List.length_replicate, hposEq])

/-- Payload bytes write their de-stuffing, as long as none but the last can fill the payload (R68, R85 to R87). -/
theorem State.InRun.exists_feeds {s : State} {m : Memory} {a n : Nat} {raw : List Byte} (h : s.InRun m a n)
    (hfit : ∀ k, k < raw.length → a + (destuff n (raw.take k)).length < 396) :
    ∃ t, Feeds s raw t ∧ t.st = (if t.pos.toNat = 396 then .trl else .acc) ∧
      t.pos.toNat = a + (destuff n raw).length ∧ m.Extends t.buf a (destuff n raw) := by
  induction raw generalizing s m a n with
  | nil => exact ⟨s, .nil s, h.st_eq, by rw [destuff_nil, List.length_replicate, h.pos_eq], h.buf_eq⟩
  | cons b bs ih =>
    have hpos : s.pos.toNat < 396 := by
      have hstart := hfit 0 (Nat.zero_lt_succ _)
      rwa [List.take_zero, destuff_nil, List.length_replicate, ← h.pos_eq] at hstart
    have hreads : s.st.reads = true := St.reads_iff.2 (.inr (.inl (h.st_acc hpos)))
    by_cases hb : b = Config.esc
    · subst hb
      obtain ⟨u, heff, hu⟩ := h.exists_effect_esc hpos
      obtain ⟨t, hfeeds, ht⟩ := ih hu fun k hk => by
        have hlater := hfit (k + 1) (Nat.succ_lt_succ hk)
        rwa [List.take_succ_cons, destuff_cons_esc] at hlater
      rw [destuff_cons_esc]
      exact ⟨t, .cons hreads heff hfeeds, ht⟩
    · have hcopied : (List.replicate (runWritten n) Config.esc ++ [b]).length = runWritten n + 1 := by simp
      obtain ⟨u, heff, hu, hext⟩ := h.exists_effect_other hpos hb
      obtain ⟨t, hfeeds, hst, htpos, hbuf⟩ := ih hu fun k hk => by
        have hlater := hfit (k + 1) (Nat.succ_lt_succ hk)
        rw [List.take_succ_cons, destuff_cons_other hb, List.length_append, hcopied] at hlater
        omega
      rw [destuff_cons_other hb]
      refine ⟨t, .cons hreads heff hfeeds, hst, ?_, hext.trans hbuf (by rw [hcopied, Nat.add_assoc])⟩
      rw [List.length_append, hcopied]
      omega

/-- ACC with `run` = 0 is at the beginning of a run. -/
theorem State.inRun_of_acc {s : State} (hst : s.st = .acc) (hrun : s.run = 0#3) (hpos : s.pos.toNat < 396) :
    s.InRun s.buf s.pos.toNat 0 :=
  ⟨by rw [hst, if_neg (Nat.ne_of_lt hpos)], by rw [hrun]; rfl, rfl, .nil _ _⟩

/-- Settles O57: the bytes are fed from the beginning of a run, and no beginning of them fills the payload. -/
theorem accumulationDestuffsByMaximalRuns : Obligations.AccumulationDestuffsByMaximalRuns := by
  intro s raw hst hrun hfit
  have hpos : s.pos.toNat < 396 := hfit 0 (Nat.zero_le _)
  have hend : s.pos.toNat + (destuff 0 raw).length < 396 := by simpa using hfit raw.length (Nat.le_refl _)
  obtain ⟨t, hfeeds, htst, htpos, hholds, hbelow⟩ :=
    (State.inRun_of_acc hst hrun hpos).exists_feeds fun k hk => hfit k (Nat.le_of_lt hk)
  obtain ⟨hstream, hticks⟩ := hfeeds.environment
  rw [if_neg (by omega)] at htst
  exact ⟨t, hfeeds.run_eq, htst, htpos, hholds, hbelow, hstream, hticks⟩

end Sys2Proof.Machine
end

section
/-!
PROOFS. The trailer, and the candidate frame as a function of the raw stream (40_synchronizer.md R88, R89).
-/

namespace Sys2Proof.Machine

/-! ### The trailer -/

/-- Trailer bytes are stored as they are, to the end of the frame (R88). -/
theorem exists_feeds_trailer {s : State} {raw : List Byte} (hst : s.st = if s.pos.toNat = 404 then .val else .trl)
    (hfit : s.pos.toNat + raw.length ≤ 404) :
    ∃ t, Feeds s raw t ∧ t.st = (if t.pos.toNat = 404 then .val else .trl) ∧
      t.pos.toNat = s.pos.toNat + raw.length ∧ t.run = s.run ∧ s.buf.Extends t.buf s.pos.toNat raw := by
  induction raw generalizing s with
  | nil => exact ⟨s, .nil s, hst, rfl, rfl, .nil _ _⟩
  | cons b bs ih =>
    rw [List.length_cons] at hfit
    have hpos : s.pos.toNat < 404 := by omega
    have htrl : s.st = .trl := by rw [hst, if_neg (Nat.ne_of_lt hpos)]
    have hnext := Index.toNat_next hpos
    have heff : Effect s (s.byteOp b) _ := (State.byteOp_of_trl htrl b).symm ▸ Effect.trlByte htrl hpos
    obtain ⟨t, hfeeds, htst, htpos, htrun, hbuf⟩ := ih (s := { s.noDiag with
      buf := s.buf.write s.pos.toNat b
      pos := s.pos + 1
      st := if (s.pos + 1).toNat = 404 then .val else .trl }) rfl (by show (s.pos + 1).toNat + _ ≤ _; omega)
    refine ⟨t, .cons (St.reads_iff.2 (.inr (.inr htrl))) heff hfeeds, htst, ?_, htrun, ?_⟩
    · rw [htpos, List.length_cons]
      show (s.pos + 1).toNat + _ = _
      omega
    · exact (Memory.Extends.write s.buf s.pos.toNat b).trans hbuf hnext.symm

/-- The eight trailer bytes complete the frame (R88). -/
theorem exists_feeds_whole_trailer {s : State} {raw : List Byte} (hst : s.st = .trl) (hpos : s.pos = 396#9)
    (hlen : raw.length = 8) :
    ∃ t, Feeds s raw t ∧ t.st = .val ∧ t.pos = 404#9 ∧ t.run = s.run ∧ s.buf.Extends t.buf 396 raw := by
  have hpos' : s.pos.toNat = 396 := by rw [hpos]; rfl
  obtain ⟨t, hfeeds, htst, htpos, htrun, hbuf⟩ :=
    exists_feeds_trailer (s := s) (raw := raw) (by rw [hst, hpos']; rfl) (by omega)
  have hfull : t.pos.toNat = 404 := by omega
  rw [if_pos hfull] at htst
  rw [hpos'] at hbuf
  exact ⟨t, hfeeds, htst, BitVec.eq_of_toNat_eq hfull, htrun, hbuf⟩

/-- Settles O58: from 396 the eight bytes end at 404, where TRL ends. -/
theorem trailerIsStoredRaw : Obligations.TrailerIsStoredRaw := by
  intro s raw hst hpos hlen
  obtain ⟨t, hfeeds, htst, htpos, htrun, hholds, hbelow⟩ := exists_feeds_whole_trailer hst hpos hlen
  obtain ⟨hstream, _⟩ := hfeeds.environment
  exact ⟨t, hlen ▸ hfeeds.run_eq, htst, htpos, htrun, hholds, hbelow, hstream⟩

/-! ### The candidate frame -/

/-- Payload bytes whose de-stuffing is first complete at their last one lead to the trailer (R67, R69). -/
theorem State.AtPayload.exists_feeds {s : State} {raw : List Byte} (h : s.AtPayload)
    (hlen : (destuff 0 raw).length = 388) (hfirst : ∀ n, n < raw.length → (destuff 0 (raw.take n)).length < 388) :
    ∃ t, Feeds s raw t ∧ t.st = .trl ∧ t.pos = 396#9 ∧ s.buf.Extends t.buf 8 (destuff 0 raw) := by
  have hpos : s.pos.toNat = 8 := by rw [h.pos_eq]; rfl
  have hrun := State.inRun_of_acc h.st_eq h.run_eq (by omega)
  rw [hpos] at hrun
  obtain ⟨t, hfeeds, htst, htpos, hbuf⟩ := hrun.exists_feeds (raw := raw) fun k hk => by
    have hk' := hfirst k hk
    omega
  have hfull : t.pos.toNat = 396 := by omega
  rw [if_pos hfull] at htst
  exact ⟨t, hfeeds, htst, BitVec.eq_of_toNat_eq hfull, hbuf⟩

/-- Settles O59: marker, payload and trailer follow one another in the stream and in the buffer. -/
theorem candidateFrameOfTheRawStream : Obligations.CandidateFrameOfTheRawStream := by
  intro s raw trailer hst hhc hlen hfirst htrailer
  have hhc0 : s.hc.toNat = 0 := by rw [hhc]; rfl
  obtain ⟨u, hmarker, hu⟩ := exists_feeds_marker (k := 7) hst (by omega)
  rw [hhc0, List.drop_zero] at hmarker
  obtain ⟨v, hpayload, hvst, hvpos, hvbuf⟩ := hu.exists_feeds hlen hfirst
  obtain ⟨t, htail, htst, htpos, _, htbuf⟩ := exists_feeds_whole_trailer hvst hvpos htrailer
  have hfeeds : Feeds s (Config.startMarker ++ raw ++ trailer) t := (hmarker.append hpayload).append htail
  have hbuf : u.buf.Extends t.buf 0 (Config.startMarker ++ destuff 0 raw ++ trailer) :=
    ((Memory.Extends.refl_of_holdsAt hu.marker).trans hvbuf rfl).trans htbuf (by simp [hlen])
  have hcount : (Config.startMarker ++ raw ++ trailer).length = 8 + raw.length + 8 := by
    rw [List.length_append, List.length_append, htrailer]
    rfl
  obtain ⟨hholds, _⟩ := hbuf
  obtain ⟨hstream, hticks⟩ := hfeeds.environment
  exact ⟨t, hcount ▸ hfeeds.run_eq, htst, htpos, hholds, hstream, hticks⟩

end Sys2Proof.Machine
end

section
/-!
PROOFS. What each operation on a byte does, with its word: the hunt, the accumulation and the trailer
(40_synchronizer.md R81 to R88).
-/

namespace Sys2Proof.Machine

/-! ### The words -/

/-- Settles O4: each word is the one the encoder writes for its operation, and the guards beside it meet that
operation's guard, so that O1 decodes it. -/
theorem spelledWordsDecode : Obligations.SpelledWordsDecode :=
  ⟨decodeOfEncodeIsTheOperation _ .huntEsc rfl rfl,
    decodeOfEncodeIsTheOperation _ .huntSoh rfl rfl,
    decodeOfEncodeIsTheOperation _ .huntComplete rfl rfl,
    decodeOfEncodeIsTheOperation _ (.huntMismatch 0x1B#8) rfl rfl,
    decodeOfEncodeIsTheOperation _ .accEsc rfl rfl,
    decodeOfEncodeIsTheOperation _ .accCollapse rfl rfl,
    decodeOfEncodeIsTheOperation _ (.accOther 0x01#8) rfl rfl,
    decodeOfEncodeIsTheOperation _ (.trlByte 0x1B#8) rfl rfl,
    decodeOfEncodeIsTheOperation _ .validatePass rfl rfl,
    decodeOfEncodeIsTheOperation _ .validateFail rfl rfl,
    decodeOfEncodeIsTheOperation _ .emitAccept rfl rfl,
    decodeOfEncodeIsTheOperation _ (.srcError .acc) rfl rfl,
    decodeOfEncodeIsTheOperation _ .reset rfl rfl⟩

/-! ### The hunt -/

/-- `s_ready` is 1 in a reading state at every edge without a reset (R33). -/
theorem State.sReady_of_reads {s : State} {k : Tick} (hreads : s.st.reads = true) (hrst : k.rst = false) :
    s.sReady k = true := by
  simp [State.sReady, hreads, hrst]

/-- Settles O5: below 4 the counter has room for one more, and the block stays in HUNT, a reading state. -/
theorem huntEscCountsTheMarkerByte : Obligations.HuntEscCountsTheMarkerByte := by
  refine ⟨rfl, fun s hst hhc => ⟨_, rfl, exec_of_effect (.huntEsc hst hhc), ?_, fun k hrst => ?_⟩⟩
  · exact Count.toNat_next (by omega)
  · exact State.sReady_of_reads (St.reads_iff.2 (.inl hst)) hrst

/-- Settles O6: below 7 the counter has room for one more. -/
theorem huntSohCountsTheMarkerByte : Obligations.HuntSohCountsTheMarkerByte :=
  ⟨rfl, fun _ hst hlo hhi => ⟨exec_of_effect (.huntSoh hst hlo hhi), Count.toNat_next hhi⟩⟩

/-- Settles O7: the byte expected is `PAT(hc)`, which the statement writes out. -/
theorem huntMismatchClearsTheCounter : Obligations.HuntMismatchClearsTheCounter :=
  ⟨fun _ => rfl, fun _ _ hst hb => exec_of_effect (.huntMismatch hst hb)⟩

/-- Settles O8: the marker fits at index 0, so its bytes are written there and none behind it. -/
theorem huntCompleteCapturesTheMarker : Obligations.HuntCompleteCapturesTheMarker := by
  refine ⟨rfl, fun s hst hhc => ?_⟩
  obtain ⟨m, hm, hholds, hrest⟩ :=
    Memory.putBytes_spec (m := s.buf) (i := 0) (vs := Config.startMarker) (by decide)
  exact ⟨m, exec_of_effect (.huntComplete hst hhc hm), hholds, fun a ha => hrest a (.inr ha)⟩

/-! ### The payload -/

/-- Settles O9: `pos` and `run` are short of their ends, so neither wraps, and the store is one write at `pos`. -/
theorem accEscStoresAndCounts : Obligations.AccEscStoresAndCounts := by
  refine ⟨rfl, fun s hst hpos hrun => ?_⟩
  have hnext := Index.toNat_next hpos
  have hexec := exec_of_effect (.accEsc hst hrun hpos)
  rw [hnext] at hexec
  exact ⟨_, hexec, hnext, Count.toNat_next hrun, fun a => Memory.read?_write _ _ a _⟩

/-- Under R31 the eight bytes of the start marker and the run of 7 lie before the write index (R86). -/
theorem State.inv.pos_of_run_seven {s : State} (h : s.inv) (hst : s.st = .acc) (hrun : s.run.toNat = 7) :
    15 ≤ s.pos.toNat ∧ s.pos.toNat < 396 := by
  obtain ⟨_, hphase, _⟩ := State.inv_iff.1 h
  obtain ⟨_, hlo, hhi, _⟩ := State.accInv_iff.1 (hphase.acc hst)
  exact ⟨by omega, hhi⟩

/-- Settles O10: the rewind by 3 does not wrap, since the run it takes back lies behind the start marker. -/
theorem accCollapseRewindsByFour : Obligations.AccCollapseRewindsByFour := by
  refine ⟨rfl, fun s hst hpos hrun => ?_⟩
  have hback (hlo : 3 ≤ s.pos.toNat) : (s.pos + 1 - 4).toNat = s.pos.toNat - 3 := Index.toNat_rewind hlo hpos
  refine ⟨_, exec_of_effect (.accCollapse hst hrun hpos), hback, fun hinv => ?_, fun a => Memory.read?_write _ _ a _⟩
  obtain ⟨hlo, hhi⟩ := hinv.pos_of_run_seven hst hrun
  rw [hback (by omega)]
  exact ⟨hlo, by omega, by omega⟩

/-- Settles O11: `pos` does not wrap, and the store is one write at `pos`. -/
theorem accOtherStoresAndEndsTheRun : Obligations.AccOtherStoresAndEndsTheRun := by
  refine ⟨fun _ => rfl, fun s b hst hpos hb => ?_⟩
  have hnext := Index.toNat_next hpos
  have hexec := exec_of_effect (.accOther hst hb hpos)
  rw [hnext] at hexec
  exact ⟨_, hexec, hnext, fun a => Memory.read?_write _ _ a _⟩

/-! ### The trailer -/

/-- `s_ready` is 0 in VAL (R33). -/
theorem State.sReady_of_val {s : State} (hst : s.st = .val) (k : Tick) : s.sReady k = false := by
  simp [State.sReady, hst, St.reads]

/-- Settles O12: `pos` does not wrap, the store is one write at `pos`, and VAL takes no read results. -/
theorem trlByteStoresRaw : Obligations.TrlByteStoresRaw := by
  refine ⟨fun _ => rfl, fun s b hst hpos => ?_⟩
  have hnext := Index.toNat_next hpos
  have hexec := exec_of_effect (.trlByte (b := b) hst hpos)
  rw [hnext] at hexec
  exact ⟨_, hexec, hnext, fun t k _ hval => State.sReady_of_val hval k, fun a => Memory.read?_write _ _ a _⟩

end Sys2Proof.Machine
end

section
/-!
PROOFS. A start marker in the stream: captured from a clean hunt, missed after a partial match (40_synchronizer.md
R84, R90).
-/

namespace Sys2Proof.Machine

/-! ### The counter outside the hunt -/

/-- `hc` is 0 outside HUNT (R22). -/
def State.CountsInHuntOnly (s : State) : Prop := s.st ≠ .hunt → s.hc = 0#3

/-- A byte selects no failure (R65). -/
theorem State.byteOp_ne_srcError (s : State) (b : Byte) (q : St) : s.byteOp b ≠ .srcError q := by
  unfold State.byteOp
  split
  · rcases decodeHunt_cases s.hc b with ⟨_, _, hop⟩ | ⟨_, _, hop⟩ | ⟨_, _, _, hop⟩ | ⟨_, hop⟩ <;> simp [hop]
  · rcases decodeAcc_cases s.run b with ⟨_, _, hop⟩ | ⟨_, _, hop⟩ | ⟨_, hop⟩ <;> simp [hop]
  · simp

/-- The hunt is left with `hc` = 0 but by a failure, which keeps `hc` (R84, R141). -/
theorem Effect.countsInHuntOnly {s t : State} {i : Instr} (h : Effect s i t) (hi : ∀ q, i ≠ .srcError q)
    (hs : s.CountsInHuntOnly) : t.CountsInHuntOnly := by
  cases h with
  | huntEsc hst | huntSoh hst | huntMismatch hst => exact fun hne => absurd hst hne
  | huntComplete | validateFail | emitAccept | reset => exact fun _ => rfl
  | accEsc hst | accCollapse hst | accOther hst | trlByte hst | validatePass hst => exact fun _ => hs (by simp [hst])
  | srcError => exact absurd rfl (hi _)

theorem Feeds.countsInHuntOnly {s t : State} {bs : List Byte} (h : Feeds s bs t) (hs : s.CountsInHuntOnly) :
    t.CountsInHuntOnly := by
  induction h with
  | nil => exact hs
  | cons _ hb _ ih => exact ih (hb.countsInHuntOnly (State.byteOp_ne_srcError _ _) hs)

/-- Settles O54: from `hc` = 0 the whole marker is what the hunt has still to match. -/
theorem markerInACleanHuntIsCaptured : Obligations.MarkerInACleanHuntIsCaptured := by
  intro s hst hhc
  have hhc0 : s.hc.toNat = 0 := by rw [hhc]; rfl
  obtain ⟨t, hfeeds, ht⟩ := exists_feeds_marker (k := 7) hst (by omega)
  rw [hhc0, List.drop_zero] at hfeeds
  have hthc : t.hc = 0#3 := hfeeds.countsInHuntOnly (fun _ => hhc) (by simp [ht.st_eq])
  obtain ⟨hstream, hticks⟩ := hfeeds.environment
  exact ⟨t, hfeeds.run_eq, ht.st_eq, hthc, ht.pos_eq, ht.run_eq, ht.marker, hstream, hticks⟩

/-! ### The counter along bytes that do not complete the marker -/

/-- The counter after the bytes `bs`, `none` where one of them completes the marker (R81 to R84);
`exists_feeds_of_huntCount` ties it to the block. -/
def huntCount (hc : Count) : List Byte → Option Count
  | [] => some hc
  | b :: bs =>
    if b = pat hc → hc.toNat < 7 then huntCount (if b = pat hc then hc + 1 else 0#3) bs else none

theorem huntCount_cons_eq_some {hc c : Count} {b : Byte} {bs : List Byte} :
    huntCount hc (b :: bs) = some c ↔
      (b = pat hc → hc.toNat < 7) ∧ huntCount (if b = pat hc then hc + 1 else 0#3) bs = some c := by
  rw [huntCount, Option.ite_none_right_eq_some]

theorem huntCount_cons_mismatch {hc : Count} {b : Byte} (hb : b ≠ pat hc) (bs : List Byte) :
    huntCount hc (b :: bs) = huntCount 0#3 bs := by
  rw [huntCount, if_pos fun hpat => absurd hpat hb, if_neg hb]

theorem huntCount_append {hc c d : Count} {xs ys : List Byte} (hxs : huntCount hc xs = some c)
    (hys : huntCount c ys = some d) : huntCount hc (xs ++ ys) = some d := by
  induction xs generalizing hc with
  | nil => rwa [List.nil_append, Option.some.inj hxs]
  | cons b xs ih =>
    obtain ⟨hb, hcount⟩ := huntCount_cons_eq_some.1 hxs
    exact huntCount_cons_eq_some.2 ⟨hb, ih hcount⟩

/-- A byte that does not complete the marker is consumed in HUNT and counted or not (R81 to R83). -/
theorem effect_hunted {s : State} {b : Byte} (hst : s.st = .hunt) (hb : b = pat s.hc → s.hc.toNat < 7) :
    Effect s (s.byteOp b) (s.hunted b) := by
  by_cases hpat : b = pat s.hc
  · rw [State.hunted, if_pos hpat, hpat]
    exact effect_marker_byte hst (hb hpat)
  · rw [State.hunted, if_neg hpat, State.byteOp_of_hunt hst, decodeHunt_mismatch hpat]
    exact .huntMismatch hst hpat

/-- Bytes none of which completes the marker leave the block in HUNT, with nothing stored. -/
theorem exists_feeds_of_huntCount {s : State} {bs : List Byte} {c : Count} (hst : s.st = .hunt)
    (h : huntCount s.hc bs = some c) : ∃ t, Feeds s bs t ∧ t.st = .hunt ∧ t.hc = c ∧ t.buf = s.buf := by
  induction bs generalizing s with
  | nil => exact ⟨s, .nil s, hst, Option.some.inj h, rfl⟩
  | cons b bs ih =>
    obtain ⟨hb, hcount⟩ := huntCount_cons_eq_some.1 h
    obtain ⟨t, hfeeds, ht⟩ := ih (s := s.hunted b) hst hcount
    exact ⟨t, .cons (St.reads_iff.2 (.inl hst)) (effect_hunted hst hb) hfeeds, ht⟩

/-! ### The marker after a partial match -/

/-- After a partial match the marker's four bytes `0x1B` are too many: one of them is not the byte expected and clears
the counter, and those behind it count to less than 4 (R90). -/
theorem exists_huntCount_escapes {hc : Count} (h : hc ≠ 0#3) :
    ∃ c, huntCount hc (List.replicate 4 Config.esc) = some c ∧ c.toNat < 4 := by
  revert hc
  decide

/-- Where `0x1B` is expected, bytes `0x01` leave the counter at 0 (R83). -/
theorem huntCount_sohs {hc : Count} (h : hc.toNat < 4) (n : Nat) :
    huntCount hc (List.replicate (n + 1) Config.soh) = some 0#3 := by
  have hb : Config.soh ≠ pat hc := by rw [pat_of_lt h]; decide
  rw [List.replicate_succ, huntCount_cons_mismatch hb]
  induction n with
  | zero => rfl
  | succ n ih => rw [List.replicate_succ, huntCount_cons_mismatch (by decide), ih]

/-- R90's miss: the first half of the marker leaves the hunt where the second half is not expected. -/
theorem huntCount_startMarker {hc : Count} (h : hc ≠ 0#3) : huntCount hc Config.startMarker = some 0#3 := by
  obtain ⟨c, hcount, hlt⟩ := exists_huntCount_escapes h
  exact huntCount_append hcount (huntCount_sohs hlt 3)

/-- Settles O55: no byte of the marker completes the partial match, and the last of them leaves the counter at 0. -/
theorem markerAfterAPartialMatchIsMissed : Obligations.MarkerAfterAPartialMatchIsMissed := by
  intro s hst hhc
  obtain ⟨t, hfeeds, htst, hthc, htbuf⟩ := exists_feeds_of_huntCount hst (huntCount_startMarker hhc)
  obtain ⟨hstream, _⟩ := hfeeds.environment
  exact ⟨t, hfeeds.run_eq, htst, hthc, htbuf, hstream⟩

end Sys2Proof.Machine
end

section
/-!
PROOFS. The validator: its two checks and the bytes they read (41_validator.md R102 to R104), the two operations
they select (R105 to R107), and the measurements a run delivers (70_reset_and_hazards.md R169).
-/

namespace Sys2Proof.Machine

/-! ### Byte strings in the buffer -/

theorem Memory.holdsAt_cons {m : Memory} {a : Nat} {b : Byte} {bs : List Byte} (hb : m.read? a = some b)
    (hbs : m.holdsAt (a + 1) bs) : m.holdsAt a (b :: bs) := by
  intro k hk
  cases k with
  | zero => exact hb
  | succ k =>
    rw [show a + (k + 1) = a + 1 + k by omega]
    exact hbs k (Nat.lt_of_succ_lt_succ hk)

/-- A `MemRead` inside the buffer reads the string that stands there. -/
theorem Memory.getBytes_of_holdsAt {m : Memory} {i n : Nat} {bs : List Byte} (h : m.holdsAt i bs)
    (hlen : bs.length = n) (hn : i + n ≤ 404) : m.getBytes i n = .ok bs :=
  Memory.getBytes_eq_ok.2 ⟨hlen, fun k hk => ⟨Nat.lt_of_lt_of_le (Nat.add_lt_add_left hk i) hn, h k (hlen ▸ hk)⟩⟩

/-! ### The checks -/

/-- Settles O39: the five bytes are the string that `EM_OK` reads, and equal strings are equal byte by byte. -/
theorem endMarkerCheckComparesFiveBytes : Obligations.EndMarkerCheckComparesFiveBytes := by
  intro m b₀ b₁ b₂ b₃ b₄ h₀ h₁ h₂ h₃ h₄
  have hholds : m.holdsAt 396 [b₀, b₁, b₂, b₃, b₄] :=
    Memory.holdsAt_cons h₀ <| Memory.holdsAt_cons h₁ <| Memory.holdsAt_cons h₂ <| Memory.holdsAt_cons h₃ <|
      Memory.holdsAt_cons h₄ <| m.holdsAt_nil _
  exact emOk_eq_ok.2 ⟨_, Memory.getBytes_of_holdsAt hholds rfl (by decide), by simp⟩

/-- Settles O40: the two bytes of the field are read as the integer `hi * 256 + lo`. -/
theorem checksumCheckComparesBigEndian : Obligations.ChecksumCheckComparesBigEndian := by
  intro m span hi lo hlen hspan hhi hlo
  have hfield : m.holdsAt 366 [hi, lo] := Memory.holdsAt_cons hhi (Memory.holdsAt_cons hlo (m.holdsAt_nil _))
  have hvalue : beU [hi, lo] = hi.toNat * 256 + lo.toNat := by simp [beU]
  exact crcOk_eq_ok.2 ⟨span, [hi, lo], Memory.getBytes_of_holdsAt hspan hlen (by decide),
    Memory.getBytes_of_holdsAt hfield rfl (by decide), by rw [hvalue]⟩

/-- `EM_OK` is a function of the bytes [396, 401) (R102). -/
theorem emOk_congr {m m' : Memory} (h : ∀ a, 396 ≤ a ∧ a < 401 → m.read? a = m'.read? a) : emOk m = emOk m' := by
  have hmarker : m.getBytes Config.endMarkerAt Config.endMarker.length =
      m'.getBytes Config.endMarkerAt Config.endMarker.length :=
    Memory.getBytes_congr fun k hk => h _ ⟨Nat.le_add_right .., Nat.add_lt_add_left hk 396⟩
  rw [emOk, hmarker, emOk]

/-- `CRC_OK` is a function of the bytes [59, 365) and [366, 368) (R103). -/
theorem crcOk_congr {m m' : Memory} (hspan : ∀ a, 59 ≤ a ∧ a < 365 → m.read? a = m'.read? a)
    (hfield : ∀ a, 366 ≤ a ∧ a < 368 → m.read? a = m'.read? a) : crcOk m = crcOk m' := by
  have hspan : m.getBytes Config.crcLo (Config.crcHi - Config.crcLo) =
      m'.getBytes Config.crcLo (Config.crcHi - Config.crcLo) :=
    Memory.getBytes_congr fun k hk => hspan _ ⟨Nat.le_add_right .., Nat.add_lt_add_left hk 59⟩
  have hfield : m.getBytes Config.crcField 2 = m'.getBytes Config.crcField 2 :=
    Memory.getBytes_congr fun k hk => hfield _ ⟨Nat.le_add_right .., Nat.add_lt_add_left hk 366⟩
  rw [crcOk, hspan, hfield, crcOk]

/-- Settles O41: each of the two checks is a function of its own bytes. -/
theorem frameValidReadsOnlyItsBytes : Obligations.FrameValidReadsOnlyItsBytes := by
  refine ⟨fun m em crc hem hcrc => ?_, fun m m' h => ?_⟩
  · have hv : frameValid m = .ok (em && crc) := frameValid_eq_ok.2 ⟨em, crc, hem, hcrc, rfl⟩
    exact ⟨hv, Bool.and_comm em crc ▸ hv⟩
  · have hem : emOk m = emOk m' := emOk_congr fun a ha => h a (.inr (.inr ha))
    have hcrc : crcOk m = crcOk m' := crcOk_congr (fun a ha => h a (.inl ha)) fun a ha => h a (.inr (.inl ha))
    rw [frameValid, hem, hcrc, frameValid]

/-! ### The two operations -/

/-- A frame the validator can judge decodes: its checks read the whole span, and every field lies inside it (R48). -/
theorem exists_decodeFrame_of_frameValid {m : Memory} {v : Bool} (h : frameValid m = .ok v)
    (ts : BitVec Config.tsW) : ∃ r, decodeFrame m ts = .ok r := by
  obtain ⟨hspan, _, _⟩ := writtenIn_of_frameValid h
  have hraw (f : FrameField) : ∃ z, f.raw m = .ok z := by
    have hrow : 59 ≤ f.row.offset ∧ f.row.offset + f.row.width ≤ 365 := by cases f <;> decide
    obtain ⟨bs, hbs⟩ := Memory.getBytes_written (m := m) (i := f.row.offset) (n := f.row.width)
      (show _ ≤ 404 by omega) fun a ha hoff => hspan a (by omega) (by omega)
    exact ⟨_, FrameField.raw_eq_ok.2 ⟨bs, hbs, rfl⟩⟩
  choose z hz using hraw
  exact ⟨_, decodeFrame_eq_ok.2 ⟨z, hz, rfl⟩⟩

/-- Settles O13: a valid frame decodes, which is all VALIDATE_PASS needs besides its guard. -/
theorem validatePassLatchesTheMeasurement : Obligations.ValidatePassLatchesTheMeasurement := by
  refine ⟨rfl, fun s hst hv => ?_⟩
  obtain ⟨r, hr⟩ := exists_decodeFrame_of_frameValid hv s.tsIn
  exact ⟨r, hr, exec_of_effect (.validatePass hst hv hr)⟩

/-- VALIDATE_FAIL drives the reason that the end marker's check gives (R106). -/
theorem exec_validateFail {s : State} {em : Bool} (hst : s.st = .val) (hv : frameValid s.buf = .ok false)
    (hem : emOk s.buf = .ok em) :
    exec .validateFail s = .next (s.raiseFrameCorruption (if em then .crcMismatch else .endMarkerMismatch)) :=
  exec_of_effect (.validateFail hst hv (corruptionOf_eq_ok.2 ⟨em, hem, rfl⟩))

/-- Settles O14: a judged frame has an answer of the end marker's check, and that gives the reason's code. -/
theorem validateFailRestartsTheHunt : Obligations.ValidateFailRestartsTheHunt := by
  refine ⟨rfl, fun s hst hv => ?_⟩
  obtain ⟨em, _, hem, _⟩ := frameValid_eq_ok.1 hv
  refine ⟨em, hem, ?_⟩
  rw [exec_validateFail hst hv hem]
  cases em with
  | true => rfl
  | false => rfl

/-- Settles O42: a wrong end marker makes the frame invalid whatever the checksum, and gives the reason. -/
theorem endMarkerReasonWhenBothFail : Obligations.EndMarkerReasonWhenBothFail := by
  intro s crc hst hem hcrc
  have hv : frameValid s.buf = .ok false := frameValid_eq_ok.2 ⟨false, crc, hem, hcrc, rfl⟩
  exact ⟨_, exec_validateFail hst hv hem, rfl, rfl⟩

/-! ### The measurements delivered -/

/-- An output event of a run is put out by the operation of one of its edges (R169). -/
theorem exists_edge_of_mem_observe {n : Nat} {s : State} {e : OutEvent} (h : e ∈ observe n s) :
    ∃ j u u' i, j < n ∧ run j s = .next u ∧ step u = .next u' ∧ u.nextOp = some i ∧ outputOf i u' = some e := by
  induction n generalizing s with
  | zero => cases h
  | succ n ih =>
    rw [observe] at h
    cases hs : step s with
    | fault f => simp [hs] at h
    | refused r => simp [hs] at h
    | next s' =>
      rw [hs] at h
      rcases List.mem_append.1 h with hnow | hlater
      · obtain ⟨i, hop, hout⟩ := Option.bind_eq_some_iff.1 (Option.mem_toList.1 hnow)
        exact ⟨0, s, s', i, Nat.succ_pos n, rfl, hs, hop, hout⟩
      · obtain ⟨j, u, u', i, hj, hrun, hedge⟩ := ih hlater
        exact ⟨j + 1, u, u', i, Nat.succ_lt_succ hj, (run_succ_of_next hs).trans hrun, hedge⟩

/-- `MEAS(r)` is the output of VALIDATE_PASS alone, and `r` is the record it latched (R169). -/
theorem outputOf_eq_meas {i : Instr} {t : State} {r : Measurement} (h : outputOf i t = some (.meas r)) :
    i = .validatePass ∧ t.mRec = r := by
  cases i with
  | validatePass =>
    cases h
    exact ⟨rfl, rfl⟩
  | validateFail | srcError | huntEsc | huntSoh | huntComplete | huntMismatch | accEsc | accCollapse | accOther
  | trlByte | emitAccept | reset => cases h

/-- An edge that takes an operation is an edge the environment gives, and it has that operation's effect. -/
theorem effect_of_nextOp {s s' : State} {i : Instr} (hop : s.nextOp = some i) (h : step s = .next s') :
    ∃ k rest, s.ticks = k :: rest ∧ Effect (s.advance k) i s' := by
  cases ht : s.ticks with
  | nil => simp [State.nextOp, ht] at hop
  | cons k rest =>
    rcases nextOp_cases ht h with ⟨hnone, _⟩ | ⟨j, hj, heff⟩
    · simp [hnone] at hop
    · obtain rfl : j = i := Option.some.inj (hj.symm.trans hop)
      exact ⟨k, rest, rfl, heff⟩

/-- Settles O60: a measurement is put out by a VALIDATE_PASS, whose effect is there for a valid frame alone; the edge
has set `ts_in` and nothing of the frame. -/
theorem onlyValidFramesAreDelivered : Obligations.OnlyValidFramesAreDelivered := by
  intro n s r h
  obtain ⟨j, u, u', i, hj, hrun, hstep, hop, hout⟩ := exists_edge_of_mem_observe h
  obtain ⟨rfl, hrec⟩ := outputOf_eq_meas hout
  obtain ⟨k, rest, ht, heff⟩ := effect_of_nextOp hop hstep
  cases heff with
  | validatePass hst hv hr =>
    cases hrec
    exact ⟨j, u, k, rest, hj, hrun, ht, hst, hv, hr⟩

end Sys2Proof.Machine
end

section
/-!
PROOFS. The field table and what `Decode` reads (42_field_demux.md R120, R121, R131, R135), and the measurement held
for the consumer (R133).
-/

namespace Sys2Proof.Machine

/-! ### The field table -/

/-- The list of the fields is complete. -/
theorem FrameField.mem_all (f : FrameField) : f ∈ FrameField.all := by cases f <;> decide

/-- The bytes of the two fields do not meet (R135). -/
def FrameField.Apart (f g : FrameField) : Prop :=
  f.row.offset + f.row.width ≤ g.row.offset ∨ g.row.offset + g.row.width ≤ f.row.offset

theorem FrameField.apart_symm : Std.Symm FrameField.Apart := ⟨fun _ _ h => h.symm⟩

/-- Down the table, each field ends before every later one begins (R120). -/
theorem FrameField.all_ascending :
    FrameField.all.Pairwise fun f g => f.row.offset + f.row.width ≤ g.row.offset := by decide

theorem FrameField.apart_of_ne {f g : FrameField} (h : f ≠ g) : f.Apart g := by
  have hall : FrameField.all.Pairwise FrameField.Apart := FrameField.all_ascending.imp Or.inl
  have := FrameField.apart_symm
  exact hall.forall f.mem_all g.mem_all h

/-- Every field lies inside the checksum span [59, 365) (R48). -/
theorem FrameField.row_in_span (f : FrameField) :
    59 ≤ f.row.offset ∧ f.row.offset + f.row.width ≤ 365 := by cases f <;> decide

/-- Settles O43: the fields stand in the table in rising order, so any two of them are apart. -/
theorem fieldTableIsTheSpecs : Obligations.FieldTableIsTheSpecs := by
  refine ⟨rfl, fun f g => ?_⟩
  obtain ⟨hlo, hhi⟩ := f.row_in_span
  exact ⟨hlo, hhi, FrameField.apart_of_ne⟩

/-- The decimal exponent of a row, none of which is positive, is a division by a power of ten (R131). -/
theorem FrameField.exactValue_of_exponent {f : FrameField} {n : Nat} (h : f.row.exponent = -n) (raw : Int) :
    f.exactValue raw = raw / 10 ^ n := by
  rw [FrameField.exactValue, h, zpow_neg, zpow_natCast, div_eq_mul_inv]

/-- Settles O48: each example divided by the power of ten of its row. -/
theorem exactValuesOfTheWorkedExamples : Obligations.ExactValuesOfTheWorkedExamples := by
  have hpower := FrameField.exactValue_of_exponent (f := .power) (n := 2) rfl
  have henergy := FrameField.exactValue_of_exponent (f := .energyCount) (n := 7) rfl
  have hvoltage := FrameField.exactValue_of_exponent (f := .voltageL1) (n := 1) rfl
  have hseconds := FrameField.exactValue_of_exponent (f := .secondsIndex) (n := 0) rfl
  unfold Obligations.ExactValuesOfTheWorkedExamples
  rw [hpower, hpower, henergy, hvoltage, hseconds]
  norm_num

/-! ### What `Decode` reads -/

/-- Settles O46: the validator has read the checksum span, and the fields lie inside it. -/
theorem decodeIsTotalOnJudgedFrames : Obligations.DecodeIsTotalOnJudgedFrames :=
  fun _ ts _ hv => exists_decodeFrame_of_frameValid hv ts

/-- The raw integer of a field is a function of the field's own bytes. -/
theorem FrameField.raw_congr {f : FrameField} {m m' : Memory}
    (h : ∀ k < f.row.width, m.read? (f.row.offset + k) = m'.read? (f.row.offset + k)) : f.raw m = f.raw m' := by
  rw [FrameField.raw, Memory.getBytes_congr h, FrameField.raw]

/-- `Decode` is a function of the nine raw integers and `ts`, its faults included. -/
theorem decodeFrame_congr {m m' : Memory} (h : ∀ f : FrameField, f.raw m = f.raw m') (ts : BitVec Config.tsW) :
    decodeFrame m ts = decodeFrame m' ts := by
  simp only [decodeFrame, secondsIndexOf, energyCountOf, powerOf, powerL1Of, powerL2Of, powerL3Of, voltageL1Of,
    voltageL2Of, voltageL3Of, h]

/-- Settles O47: buffers that agree on the bytes of the fields agree on the nine raw integers. -/
theorem decodeReadsOnlyTheFieldBytes : Obligations.DecodeReadsOnlyTheFieldBytes :=
  fun _ _ ts h => decodeFrame_congr (fun f => FrameField.raw_congr (h f)) ts

/-! ### The measurement held -/

/-- What every edge keeps holds after a run. -/
theorem run_keeps {P : State → Prop} (hstep : ∀ s s', P s → step s = .next s' → P s') {n : Nat} {s s' : State}
    (hs : P s) (h : run n s = .next s') : P s' := by
  induction n generalizing s with
  | zero =>
    cases h
    exact hs
  | succ n ih =>
    obtain ⟨u, hu, hrun⟩ := run_succ_eq_next h
    exact ih (hstep s u hs hu) hrun

/-- Outside the reading states `s_ready` is 0 (R33). -/
theorem State.sReady_of_not_reads {s : State} (h : s.st.reads = false) (k : Tick) : s.sReady k = false := by
  rw [State.sReady, h, Bool.false_and]

theorem State.transfers_of_not_reads {s : State} (h : s.st.reads = false) (k : Tick) : s.transfers k = false := by
  rw [State.transfers, State.sReady_of_not_reads h, Bool.and_false]

/-- In EMIT the ports select nothing while there is neither a reset nor `m_ready` (R170). -/
theorem fetch_of_emit_waiting {s : State} {k : Tick} (hst : s.st = .emit) (hrst : k.rst = false)
    (hready : k.mReady = false) : fetch s k = none := by
  have htr : s.transfers k = false := State.transfers_of_not_reads (by rw [hst]; rfl) k
  simp [fetch, hrst, htr, hst, hready]

/-- `t` is in EMIT with the measurement, the buffer and the stream of `s`, and the environment it has left neither
resets nor accepts (R133). -/
structure State.HoldsMeasurementOf (s t : State) : Prop where
  st : t.st = .emit
  mValid : t.mValid = s.mValid
  mRec : t.mRec = s.mRec
  buf : t.buf = s.buf
  stream : t.stream = s.stream
  waits : ∀ k ∈ t.ticks, k.rst = false ∧ k.mReady = false

/-- An edge of that environment selects nothing, and in EMIT it takes nothing of the stream. -/
theorem State.HoldsMeasurementOf.step {s t t' : State} (h : s.HoldsMeasurementOf t) (hstep : step t = .next t') :
    s.HoldsMeasurementOf t' := by
  rcases step_cases hstep with ⟨_, rfl⟩ | ⟨k, rest, ht, hedge⟩
  · exact h
  · obtain ⟨hnow, hlater⟩ : (k.rst = false ∧ k.mReady = false) ∧ ∀ j ∈ rest, j.rst = false ∧ j.mReady = false :=
      List.forall_mem_cons.1 (ht ▸ h.waits)
    have hfetch : fetch t k = none := fetch_of_emit_waiting h.st hnow.1 hnow.2
    rcases hedge with ⟨_, _, rfl⟩ | ⟨w, _, hw, _, _⟩
    · have htr : t.transfers k = false := State.transfers_of_not_reads (by rw [h.st]; rfl) k
      have hstream : (t.advance k).stream = t.stream := by simp [htr]
      have hticks : (t.advance k).ticks = rest := by rw [State.advance_ticks, ht, List.tail_cons]
      exact ⟨h.st, h.mValid, h.mRec, h.buf, hstream.trans h.stream, hticks ▸ hlater⟩
    · rw [hfetch] at hw
      cases hw

/-- Settles O30: every edge keeps what EMIT holds, and EMIT is no reading state. -/
theorem measurementIsHeldUntilAccepted : Obligations.MeasurementIsHeldUntilAccepted := by
  intro n s s' hst hwaits hrun
  have hself : s.HoldsMeasurementOf s := ⟨hst, rfl, rfl, rfl, rfl, hwaits⟩
  obtain ⟨hst', hvalid, hrec, hbuf, hstream, _⟩ := run_keeps (fun _ _ => State.HoldsMeasurementOf.step) hself hrun
  exact ⟨hst', hvalid, hrec, hbuf, hstream, State.sReady_of_not_reads (by rw [hst']; rfl)⟩

end Sys2Proof.Machine
end

section
/-!
PROOFS. The two error events: FrameCorruption, which restarts the hunt, and SourceError, which ends in FAILED
(60_exceptions.md R140 to R144).
-/

namespace Sys2Proof.Machine

/-! ### The two operations -/

/-- Settles O33: VALIDATE_FAIL is the one operation that raises a FrameCorruption, which writes none of the three. -/
theorem frameCorruptionIsSilent : Obligations.FrameCorruptionIsSilent := by
  intro s t h
  cases exec_eq_next.1 h with
  | validateFail => exact ⟨rfl, rfl, rfl, State.raiseFrameCorruption_diagRaised _ _⟩

/-- Settles O16: the three states are the reading ones, and FAILED is none of them. -/
theorem srcErrorStopsTheBlock : Obligations.SrcErrorStopsTheBlock := by
  refine ⟨rfl, rfl, rfl, fun s hst => ⟨s.raiseSourceError, rfl, ?_, State.sReady_of_not_reads rfl⟩⟩
  exact exec_of_effect (.srcError rfl (St.reads_iff.2 hst))

/-! ### The way into FAILED -/

/-- SRC_ERROR is the one operation with FAILED in its effect. -/
theorem Effect.eq_srcError_of_failed {s t : State} {i : Instr} (h : Effect s i t) (ht : t.st = .failed) :
    ∃ q, i = .srcError q := by
  cases h with
  | srcError => exact ⟨_, rfl⟩
  | huntEsc hst | huntSoh hst | huntMismatch hst | accCollapse hst => cases hst.symm.trans ht
  | huntComplete | validatePass | validateFail | emitAccept | reset => cases ht
  | accEsc | accOther | trlByte =>
    dsimp only at ht
    split at ht <;> cases ht

/-- The ports select SRC_ERROR in a reading state only by the transfer of a failure (R62, R65): a byte selects
another operation, and the events of VAL and EMIT are no read results. -/
theorem transfers_failure_of_select_srcError {s : State} {k : Tick} {w : StepWord} {q : St} (hreads : s.st.reads = true)
    (hf : fetch s k = some w) (hsel : select s w = .next (.srcError q)) : s.transfers k = true ∧ s.sErr = true := by
  rcases fetch_cases hf with ⟨_, rfl⟩ | ⟨_, htr, herr, _⟩ | ⟨_, _, _, rfl⟩ | ⟨_, hst, _⟩ | ⟨_, hst, _⟩
  · cases (select_reset s).symm.trans hsel
  · exact ⟨htr, herr⟩
  · rw [select_byte hreads] at hsel
    exact absurd (Host.Outcome.next.inj hsel) (s.byteOp_ne_srcError _ q)
  · simp [hst, St.reads] at hreads
  · simp [hst, St.reads] at hreads

/-- Settles O32: an edge that is no step keeps the state, and of the operations SRC_ERROR alone leads to FAILED. -/
theorem onlyASourceFailureIsFatal : Obligations.OnlyASourceFailureIsFatal := by
  intro s s' h hne hfailed
  rcases step_cases h with ⟨_, rfl⟩ | ⟨k, rest, ht, ⟨_, _, rfl⟩ | ⟨w, i, hf, hsel, hexec⟩⟩
  · exact absurd hfailed hne
  · exact absurd hfailed hne
  · have heff : Effect (s.advance k) i s' := exec_eq_next.1 hexec
    obtain ⟨q, rfl⟩ := heff.eq_srcError_of_failed hfailed
    cases heff with
    | srcError hst hq =>
      have hreads : s.st.reads = true := (congrArg St.reads hst).trans hq
      obtain ⟨htr, herr⟩ := transfers_failure_of_select_srcError hreads hf hsel
      obtain ⟨iw, hstream⟩ := State.exists_stream_eq_cons_of_transfers htr
      have hiw : iwIsError iw = true := by rwa [State.sErr, hstream, List.headD_cons] at herr
      exact ⟨k, rest, iw, _, ht, hstream, htr, hiw, rfl⟩

/-! ### FAILED is terminal -/

/-- In FAILED the ports select nothing but a reset (R142). -/
theorem fetch_of_failed {s : State} {k : Tick} (hst : s.st = .failed) (hrst : k.rst = false) : fetch s k = none := by
  have htr : s.transfers k = false := State.transfers_of_not_reads (by rw [hst]; rfl) k
  simp [fetch, hrst, htr, hst]

/-- `t` is in FAILED with the two flags and the stream of `s`, and the environment it has left does not reset
(R142). -/
structure State.HaltedAs (s t : State) : Prop where
  st : t.st = .failed
  ioError : t.ioError = s.ioError
  mValid : t.mValid = s.mValid
  stream : t.stream = s.stream
  noReset : ∀ k ∈ t.ticks, k.rst = false

/-- An edge of that environment is no step, and in FAILED it takes nothing of the stream. -/
theorem State.HaltedAs.of_step {s t t' : State} (h : s.HaltedAs t) (hstep : step t = .next t') : s.HaltedAs t' := by
  cases ht : t.ticks with
  | nil =>
    cases (step_of_no_ticks ht).symm.trans hstep
    exact h
  | cons k rest =>
    obtain ⟨hrst, hlater⟩ : k.rst = false ∧ ∀ j ∈ rest, j.rst = false := List.forall_mem_cons.1 (ht ▸ h.noReset)
    have hheld : step t = .next (t.advance k).noDiag :=
      step_of_fetch_none ht (fetch_of_failed h.st hrst) (by rw [h.st]; rfl)
    obtain ⟨hstream, hticks⟩ := environment_of_step ht hstep
    have htr : t.transfers k = false := State.transfers_of_not_reads (by rw [h.st]; rfl) k
    rw [State.advance_stream, htr] at hstream
    cases hheld.symm.trans hstep
    exact ⟨h.st, h.ioError, h.mValid, hstream.trans h.stream, hticks ▸ hlater⟩

/-- Settles O31: every edge keeps what FAILED holds, and the invariant gives the flags their values there. -/
theorem failedIsLeftOnlyByReset : Obligations.FailedIsLeftOnlyByReset := by
  intro n s s' hst hrst hrun
  have hself : s.HaltedAs s := ⟨hst, rfl, rfl, rfl, hrst⟩
  obtain ⟨hst', hio, hvalid, hstream, _⟩ := run_keeps (fun _ _ => State.HaltedAs.of_step) hself hrun
  refine ⟨hst', hio, hvalid, hstream, fun hs => ?_, fun k => ?_⟩
  · obtain ⟨_, _, ⟨hfailed, hemit⟩, _⟩ := State.inv_iff.1 hs
    have hnotValid : s.mValid = false := Bool.eq_false_iff.2 fun hv => by cases hst.symm.trans (hemit.1 hv)
    exact ⟨hio.trans (hfailed.2 hst), hvalid.trans hnotValid⟩
  · exact ⟨State.sReady_of_not_reads (by rw [hst']; rfl) k, fetch_of_failed hst'⟩

end Sys2Proof.Machine
end

section
/-!
PROOFS. Reset and the edge: what a rising edge selects, the edge that is no step, and RESET
(70_reset_and_hazards.md R152, R160, R170).
-/

namespace Sys2Proof.Machine

/-! ### What an edge selects -/

/-- At an edge with `rst` = 1 the ports select RESET, whatever else they show (R160). -/
theorem fetch_of_rst {s : State} {k : Tick} (hrst : k.rst = true) : fetch s k = some (.rst1 1#1) := by
  simp [fetch, hrst]

/-- A transfer selects the event of the result transferred. -/
theorem fetch_of_transfers {s : State} {k : Tick} (htr : s.transfers k = true) :
    fetch s k = some (.ev13 (if s.sErr = true then mkEvent s.st .error 0#8 else mkEvent s.st .byte s.sData)) := by
  obtain ⟨hrst, _⟩ := State.transfers_iff.1 htr
  simp [fetch, hrst, htr]

/-- Without a reset a result is transferred exactly when one is offered in a reading state (R33). -/
theorem State.transfers_iff_of_no_rst {s : State} {k : Tick} (hrst : k.rst = false) :
    s.transfers k = true ↔ (s.st = .hunt ∨ s.st = .acc ∨ s.st = .trl) ∧ s.sValid k = true := by
  rw [← St.reads_iff, State.transfers, State.sReady, hrst, Bool.not_false, Bool.and_true, Bool.and_eq_true, and_comm]

/-- Without a reset and without a transfer the ports can select the event of VAL or of EMIT (R170). -/
theorem fetch_of_no_transfer {s : State} {k : Tick} (hrst : k.rst = false) (htr : s.transfers k = false) :
    fetch s k =
      if s.st = .val ∧ k.valDone = true then some (.ev13 (mkEvent .val .internal 0#8))
      else if s.st = .emit ∧ k.mReady = true then some (.ev13 (mkEvent .emit .accept 0#8))
      else none := by
  cases hst : s.st with
  | val | emit | hunt | acc | trl | failed | reserved6 | reserved7 => simp [fetch, hrst, htr, hst]

/-- `s_ready` is 1 exactly in the reading states, while `rst` is 0 (R33). -/
theorem State.sReady_eq (s : State) (k : Tick) :
    s.sReady k = (decide (s.st = .hunt ∨ s.st = .acc ∨ s.st = .trl) && !k.rst) := by
  rw [State.sReady, ← Bool.decide_coe s.st.reads, decide_eq_decide.2 St.reads_iff]

/-- Settles O25: a reset comes first, then a transfer, then the event of the state. -/
theorem edgeFollowsTheCycleMapping : Obligations.EdgeFollowsTheCycleMapping := by
  intro s k
  refine ⟨?_, s.sReady_eq k, rfl, rfl⟩
  cases hrst : k.rst with
  | true => exact fetch_of_rst hrst
  | false =>
    rw [if_neg Bool.false_ne_true]
    cases htr : s.transfers k with
    | true => rw [fetch_of_transfers htr, if_pos ((State.transfers_iff_of_no_rst hrst).1 htr)]
    | false =>
      rw [fetch_of_no_transfer hrst htr, if_neg (mt (State.transfers_iff_of_no_rst hrst).2 (Bool.eq_false_iff.1 htr))]

/-! ### The edge that is no step -/

/-- An edge that selects nothing transfers nothing. -/
theorem State.transfers_of_fetch_none {s : State} {k : Tick} (hf : fetch s k = none) : s.transfers k = false :=
  Bool.eq_false_iff.2 fun htr => Option.some_ne_none _ ((fetch_of_transfers htr).symm.trans hf)

/-- Where nothing is transferred, the environment's side of an edge ends the tick and samples `ts_in`. -/
theorem State.advance_of_no_transfer {s : State} {k : Tick} {rest : List Tick} (ht : s.ticks = k :: rest)
    (htr : s.transfers k = false) : s.advance k = { s with ticks := rest, tsIn := k.tsIn } := by
  simp [State.advance, ht, htr]

/-- Settles O26: an idle edge takes nothing of the stream and drives no diagnostic. -/
theorem idleEdgeHoldsAllState : Obligations.IdleEdgeHoldsAllState := by
  intro s k rest ht hf hst
  rw [step_of_fetch_none ht hf hst, State.advance_of_no_transfer ht (State.transfers_of_fetch_none hf)]
  rfl

/-! ### RESET -/

/-- Settles O17: RESET has no guard, and its effect holds the values of R34 beside the environment it was given. -/
theorem resetTakesEveryStateToTheHunt : Obligations.ResetTakesEveryStateToTheHunt :=
  ⟨rfl, fun _ => ⟨_, exec_of_effect .reset, rfl, rfl, rfl, rfl, Memory.read?_nil, rfl, rfl, rfl, rfl, rfl, rfl, rfl⟩⟩

theorem State.sReady_of_rst {s : State} {k : Tick} (hrst : k.rst = true) : s.sReady k = false := by
  rw [State.sReady, hrst, Bool.not_true, Bool.and_false]

theorem State.mValidPort_of_rst {s : State} {k : Tick} (hrst : k.rst = true) : s.mValidPort k = false := by
  rw [State.mValidPort, hrst, Bool.not_true, Bool.and_false]

theorem State.transfers_of_rst {s : State} {k : Tick} (hrst : k.rst = true) : s.transfers k = false := by
  rw [State.transfers, State.sReady_of_rst hrst, Bool.and_false]

/-- An edge with `rst` = 1 runs RESET on the state whose edge is over (R160). -/
theorem step_of_rst {s : State} {k : Tick} {rest : List Tick} (ht : s.ticks = k :: rest) (hrst : k.rst = true) :
    step s = exec .reset { s with ticks := rest, tsIn := k.tsIn } := by
  rw [step_of_select ht (fetch_of_rst hrst) (select_reset s),
    State.advance_of_no_transfer ht (State.transfers_of_rst hrst)]

/-- Settles O27: the edge is the RESET step, which answers in every state with the reset values. -/
theorem resetOverridesEveryEvent : Obligations.ResetOverridesEveryEvent := by
  refine ⟨rfl, fun s k rest ht hrst => ?_⟩
  obtain ⟨hword, hreset⟩ := resetTakesEveryStateToTheHunt
  obtain ⟨t, hexec, hst, hhc, hrun, hpos, hbuf, hvalid, hio, hdiag, hreason, hstream, hticks, _⟩ :=
    hreset { s with ticks := rest, tsIn := k.tsIn }
  exact ⟨hword ▸ fetch_of_rst hrst, State.sReady_of_rst hrst, State.mValidPort_of_rst hrst, t,
    (step_of_rst ht hrst).trans hexec, hst, hhc, hrun, hpos, hbuf, hvalid, hio, hdiag, hreason, hstream, hticks⟩

end Sys2Proof.Machine
end

section
/-!
PROOFS. The measurement accepted, what RESET keeps of a state, and the stores at an index that does not exist
(42_field_demux.md R134, 70_reset_and_hazards.md R161, 20_memory.md section 1).
-/

namespace Sys2Proof.Machine

/-! ### The measurement accepted -/

/-- Settles O15: the effect of EMIT_ACCEPT is the entry to the hunt with `m_valid` down, and EMIT is its one guard. -/
theorem emitAcceptReturnsToTheHunt : Obligations.EmitAcceptReturnsToTheHunt :=
  ⟨rfl, fun _ hst => exec_of_effect (.emitAccept hst)⟩

/-! ### What RESET keeps -/

/-- RESET builds its state of the reset values and the environment's side; the free record is drawn by the
counter alone (R160, log entry 4). -/
theorem exec_reset (s : State) :
    exec .reset s = .next { State.reset with
      mRec := Measurement.ofBits (Config.freeRecBits s.freeCount)
      tsIn := s.tsIn
      stream := s.stream
      ticks := s.ticks
      freeCount := s.freeCount + 1 } := exec_of_effect .reset

/-- Settles O28: what RESET takes over of a state is the environment's side and the counter, where the two agree. -/
theorem nothingSurvivesAReset : Obligations.NothingSurvivesAReset := by
  intro s u htsIn hstream hticks hcount
  refine ⟨_, exec_reset s, ?_⟩
  rw [exec_reset, htsIn, hstream, hticks, hcount]

/-! ### Stores outside the buffer -/

/-- A storing operation that is selected stops at an index that does not exist, whatever it was to do after the
store (R40, log entry 12). -/
theorem guarded_storeByte_of_ge {s : State} {p : Prop} [Decidable p] (hst : s.st = .acc ∨ s.st = .trl) (hp : p)
    (hpos : 404 ≤ s.pos.toNat) (b : Byte) (pos' : Index) (k : State → Answer) :
    guarded s (decide p) (orFault (s.noDiag.storeByte b pos') k) = .fault (.noSuchIndex s.pos.toNat) := by
  have hres : s.st.isReserved = false := St.not_reserved_of_reads (St.reads_iff.2 (.inr hst))
  have hstore : s.noDiag.storeByte b pos' = .error (.noSuchIndex s.pos.toNat) := State.storeByte_of_ge b pos' hpos
  rw [decide_eq_true hp, guarded_true hres, hstore, orFault_error]

/-- Settles O37: each of the four operations stores at `pos` before anything else, and ACC and TRL are reading
states. -/
theorem storeOutsideTheBufferFaults : Obligations.StoreOutsideTheBufferFaults := by
  intro s b hpos
  refine ⟨fun hst hrun => ?accEsc, fun hst hrun => ?accCollapse, fun hst hb => ?accOther, fun hst => ?trlByte⟩
  case accEsc => exact guarded_storeByte_of_ge (.inl hst) ⟨hst, hrun⟩ hpos _ _ _
  case accCollapse => exact guarded_storeByte_of_ge (.inl hst) ⟨hst, hrun⟩ hpos _ _ _
  case accOther => exact guarded_storeByte_of_ge (.inl hst) ⟨hst, hb⟩ hpos _ _ _
  case trlByte => exact guarded_storeByte_of_ge (.inr hst) hst hpos _ _ _

end Sys2Proof.Machine
end
